-- ==== Sys2Proof/Word.lean ====
section
/-!
DEFINITION. The two word types of the block (00_scope.md rule R16: `u8` and `u16`).
-/

namespace Sys2Proof

/-- `u8`: one byte of a frame, a function code, a slave address (R16). -/
abbrev Byte := BitVec 8

/-- `u16`: a 16-bit bank element, a frame field, the CRC register (R8, R16). -/
abbrev Word := BitVec 16

end Sys2Proof
end

