-- ==== Sys2Proof/Machine/Bytes.lean ====
section
/-!
DEFINITION. Byte order (20_memory.md rules R52, R53) and the reads of a frame's bytes (00_scope.md rule R17).
-/

namespace Sys2Proof

/-- Bits 15..8 of a word. -/
def hiByte (w : Word) : Byte := w.extractLsb' 8 8

/-- Bits 7..0 of a word. -/
def loByte (w : Word) : Byte := w.extractLsb' 0 8

/-- The word whose bits 15..8 are `hi` and bits 7..0 are `lo`: hi * 256 + lo (R17, R76). -/
def wordOf (hi lo : Byte) : Word := hi ++ lo

/-- A word as it stands in a data field: high byte first (R52, R146). -/
def bigEndian (w : Word) : List Byte := [hiByte w, loByte w]

/-- A word as it stands in a frame's trailer: low byte first (R53, R103). -/
def littleEndian (w : Word) : List Byte := [loByte w, hiByte w]

/-- The payload: every byte before the two-byte trailer (R19, R70). -/
def payload (frame : List Byte) : List Byte := frame.take (frame.length - 2)

/-- `Field(i)` (R17): the byte at index i if it lies in the payload, i <= len - 3. -/
def field (frame : List Byte) (i : Nat) : Option Byte :=
  if i + 3 ≤ frame.length then frame[i]? else none

/-- `be16(i)` (R17): Field(i) * 256 + Field(i+1), read in that order. -/
def be16 (frame : List Byte) (i : Nat) : Option Word :=
  match field frame i, field frame (i + 1) with
  | some hi, some lo => some (wordOf hi lo)
  | _, _ => none

end Sys2Proof
end

