-- ==== Sys2Proof/Machine/Literals.lean ====
section
/-!
DEFINITION. The numeric literals the source fixes, each named once so that it can be corrected in one place
(93_implementation_defined.md section 2).
-/

namespace Sys2Proof.Machine

/-- CAP_DO: the number of discrete outputs (R7). -/
abbrev capDO : Nat := 20

/-- CAP_DI: the number of discrete inputs (R7). -/
abbrev capDI : Nat := 20

/-- CAP_HR: the number of holding registers (R7). -/
abbrev capHR : Nat := 10

/-- CAP_IR: the number of analog input registers (R7). -/
abbrev capIR : Nat := 20

/-- MAX_RW_COUNT: the largest register count functions 04 and 16 accept (R10). -/
def maxRwCount : Nat := 0x7B

/-- The reflected CRC-16 polynomial (R2, R100). -/
def crcPoly : Word := 0xA001

/-- The value the CRC register is set to before each computation (R2, R29). -/
def crcSeed : Word := 0xFFFF

/-- The value of function 05 that means logical 1 (R171). -/
def coilOn : Word := 0xFF00

/-- The value of function 05 that means logical 0 (R171). -/
def coilOff : Word := 0x0000

/-- The least MAX_FRAME_LEN an instance may have (R11): the longest response the rules produce. -/
def minFrameBuffer : Nat := 45

end Sys2Proof.Machine
end

