-- ==== Sys2Proof/Machine/Crc.lean ====
section
/-!
DEFINITION. The CRC-16 generator (40_crc.md rules R100 to R105) and the two-byte checksum of a byte sequence.
-/

namespace Sys2Proof.Machine

/-- One shift of the generator: right by one, with the polynomial when the bit shifted out is 1 (R101). -/
def crcShift (c : Word) : Word :=
  if c.getLsbD 0 then (c >>> 1) ^^^ crcPoly else c >>> 1

/-- `k` shifts. -/
def crcShifts : Nat → Word → Word
  | 0, c => c
  | k + 1, c => crcShifts k (crcShift c)

/-- STEP(b) of the generator, `crc_step` of R101. -/
def crcStep (c : Word) (b : Byte) : Word :=
  crcShifts 8 (c ^^^ b.setWidth 16)

/-- The CRC register after INIT and STEP over each byte of `m` in order (R100, R105). There is no final exclusive or. -/
def crcOver (m : List Byte) : Word :=
  m.foldl crcStep crcSeed

/-- `crc16(m)`: the pair (lo, hi) (R100, R103). -/
def crc16 (m : List Byte) : Byte × Byte :=
  (loByte (crcOver m), hiByte (crcOver m))

/-- `m` followed by its checksum, low byte first (R53, R103): a whole frame. -/
def sealFrame (m : List Byte) : List Byte :=
  m ++ littleEndian (crcOver m)

/-- One step of the bit-serial generator (R102): the input bit `b` enters at the feedback. -/
def crcSerialBit (c : Word) (b : Bool) : Word :=
  (c >>> 1) ^^^ (if Bool.xor (c.getLsbD 0) b then crcPoly else 0)

/-- A byte through the bit-serial generator, least significant bit first (R102). -/
def crcSerialByte (c : Word) (b : Byte) : Word :=
  (List.range 8).foldl (fun r j => crcSerialBit r (b.getLsbD j)) c

end Sys2Proof.Machine
end

