-- ==== Sys2Proof/Syntax.lean ====
section
/-!
DEFINITION. The instructions of the block: one constructor per row of opcode_table.json, that is, one per function code of
R78 and one for every other code (R79, R122). Operands are the request fields of 30_encoding.md rules R72 to R74, already
assembled; the address byte and the trailer belong to the frame, not to the instruction.
-/

namespace Sys2Proof

/-- The eight function codes of R78, by the names of its table. -/
inductive FunctionCode where
  | rdo | rdi | rhr | rir | wdo | whr | wdon | whrn
  deriving DecidableEq, Repr

/-- One request, decoded. -/
inductive Instr where
  /-- RDO, Read Discrete Outputs (R141). -/
  | rdo (off n : Word)
  /-- RDI, Read Discrete Inputs (R142, R143). -/
  | rdi (off n : Word)
  /-- RHR, Read Analog Outputs (R144). -/
  | rhr (off n : Word)
  /-- RIR, Read Analog Inputs (R145); `bc` is frame[6], whatever that byte is (R74). -/
  | rir (off n : Word) (bc : Byte)
  /-- WDO, Write Single Discrete Output (R171). -/
  | wdo (off v : Word)
  /-- WHR, Write Single Analog Output (R172). -/
  | whr (off v : Word)
  /-- WDON, Write Multiple Discrete Outputs (R173): `bc` is the byte-count field, absent from a payload that ends before
  index 6 and never checked; `data` is every payload byte from index 7 on. -/
  | wdon (off n : Word) (bc : Option Byte) (data : List Byte)
  /-- WHRN, Write Multiple Analog Outputs (R174): `data` is every payload byte from index 7 on. -/
  | whrn (off n : Word) (bc : Byte) (data : List Byte)
  /-- ILLEGAL: any function code outside the eight (R79, R122). -/
  | illegal (fc : Byte)
  deriving DecidableEq, Repr

end Sys2Proof
end

