-- ==== Sys2Proof/Machine/FunctionCodes.lean ====
section
/-!
DEFINITION. The function-code bytes of R78, the exact 8-bit compare that selects one (R79), and the code byte of each
instruction.
-/

namespace Sys2Proof

/-- The byte of a function code; the source's 15 and 16 are decimal (R2, R78, D19). -/
def FunctionCode.byte : FunctionCode → Byte
  | .rdo => 0x01
  | .rdi => 0x02
  | .rhr => 0x03
  | .rir => 0x04
  | .wdo => 0x05
  | .whr => 0x06
  | .wdon => 0x0F
  | .whrn => 0x10

/-- The eight function codes, in the order of R78. -/
def FunctionCode.all : List FunctionCode := [.rdo, .rdi, .rhr, .rir, .wdo, .whr, .wdon, .whrn]

/-- The function a code byte selects, by an exact compare of all eight bits; none for the 248 illegal codes (R79). -/
def FunctionCode.ofByte (fc : Byte) : Option FunctionCode :=
  FunctionCode.all.find? (fun f => f.byte == fc)

/-- Byte 1 of every request of this instruction. -/
def Instr.fc : Instr → Byte
  | .rdo _ _ => FunctionCode.rdo.byte
  | .rdi _ _ => FunctionCode.rdi.byte
  | .rhr _ _ => FunctionCode.rhr.byte
  | .rir _ _ _ => FunctionCode.rir.byte
  | .wdo _ _ => FunctionCode.wdo.byte
  | .whr _ _ => FunctionCode.whr.byte
  | .wdon _ _ _ _ => FunctionCode.wdon.byte
  | .whrn _ _ _ _ => FunctionCode.whrn.byte
  | .illegal fc => fc

end Sys2Proof
end

