-- ==== Sys2Proof/WellFormed.lean ====
section
/-!
DEFINITION. Which terms of `Instr` are instructions: those some request frame decodes to.
-/

namespace Sys2Proof

/-- Two checks. An `illegal` code is none of the eight (R79). A WDON whose payload ends before the byte-count field at
index 6 has no data, which would start at index 7 (R73). Every other operand value is encodable (R80). -/
def Instr.wellFormed : Instr → Bool
  | .illegal fc => (FunctionCode.ofByte fc).isNone
  | .wdon _ _ none data => data.isEmpty
  | .wdon _ _ (some _) _ => true
  | .rdo _ _ | .rdi _ _ | .rhr _ _ | .rir _ _ _ | .wdo _ _ | .whr _ _ | .whrn _ _ _ _ => true

end Sys2Proof
end

