-- ==== Sys2Proof/Decode.lean ====
section
/-!
DEFINITION. The frame parser (30_encoding.md, 41_dispatch.md rules R121 to R124), total on every byte sequence, and the
encoder that writes a request frame of an instruction.
-/

namespace Sys2Proof

open Sys2Proof.Machine

/-- Why a byte sequence has no instruction. -/
inductive DecodeError where
  /-- fewer than the four bytes that hold an address, a function code and a trailer (R112). -/
  | tooShort
  /-- a header field the handler reads lies outside the payload (R123, R124, R204 step 5). -/
  | short
  deriving DecidableEq, Repr

/-- The fields a handler reads before its first check, after OFF and Q: none but for functions 04 (BC, a raw index, R74),
15 (carried, not read, R170) and 16 (BC through Field(6), R174). `data` is the payload from index 7 on. -/
def decodeFields (f : FunctionCode) (off q : Word) (frame : List Byte) : Except DecodeError Instr :=
  match f with
  | .rdo => .ok (.rdo off q)
  | .rdi => .ok (.rdi off q)
  | .rhr => .ok (.rhr off q)
  | .rir => .ok (.rir off q (frame.getD 6 0))
  | .wdo => .ok (.wdo off q)
  | .whr => .ok (.whr off q)
  | .wdon => .ok (.wdon off q (field frame 6) ((payload frame).drop 7))
  | .whrn =>
    match field frame 6 with
    | some bc => .ok (.whrn off q bc ((payload frame).drop 7))
    | none => .error .short

/-- The parser: the function code is byte 1, all eight bits of it (R78, R121); a code outside the eight ends the parsing
there (R122); each of the eight reads OFF and Q next (R124). -/
def decode (frame : List Byte) : Except DecodeError Instr :=
  if frame.length < 4 then .error .tooShort
  else
    match FunctionCode.ofByte (frame.getD 1 0) with
    | none => .ok (.illegal (frame.getD 1 0))
    | some f =>
      match be16 frame 2, be16 frame 4 with
      | some off, some q => decodeFields f off q frame
      | _, _ => .error .short

/-- The common header RQ-HDR after the address: function code, OFF, Q (R72). -/
def header (fc : Byte) (off q : Word) : List Byte :=
  fc :: (bigEndian off ++ bigEndian q)

/-- The payload of an instruction's request after the address byte, in the format of R73. -/
def Instr.body : Instr → List Byte
  | .rdo off n => header FunctionCode.rdo.byte off n
  | .rdi off n => header FunctionCode.rdi.byte off n
  | .rhr off n => header FunctionCode.rhr.byte off n
  | .rir off n bc => header FunctionCode.rir.byte off n ++ [bc]
  | .wdo off v => header FunctionCode.wdo.byte off v
  | .whr off v => header FunctionCode.whr.byte off v
  | .wdon off n bc data => header FunctionCode.wdon.byte off n ++ bc.toList ++ data
  | .whrn off n bc data => header FunctionCode.whrn.byte off n ++ [bc] ++ data
  | .illegal fc => [fc]

/-- The request frame of an instruction to the slave at `addr`: payload and checksum trailer (R70, R73). -/
def encode (addr : Byte) (i : Instr) : List Byte :=
  sealFrame (addr :: i.body)

/-- The `k` low bytes of a number, least significant first. -/
def wordBytes : Nat → Nat → List Byte
  | 0, _ => []
  | k + 1, w => BitVec.ofNat 8 w :: wordBytes k (w / 256)

/-- The request frame that a row of opcode_table.json stands for. The table's bit 0 is bit 0 of request byte 1, the function
code; its bits count on through bytes 2, 3, … . Bits above `nbits` are 0, up to byte 6, the last fixed field of the longest
format (R73). The address comes before them and the checksum after (log entry 19). -/
def tableFrame (addr : Byte) (nbits w : Nat) : List Byte :=
  sealFrame (addr :: wordBytes (max 6 ((nbits + 7) / 8)) (w % 2 ^ nbits))

/-- The instruction the decoder reads from a row's word. The decoder does not look at the address byte. -/
def decodeTableWord (nbits w : Nat) : Option Instr :=
  (decode (tableFrame 0 nbits w)).toOption

end Sys2Proof
end

