-- ==== Sys2Proof/Config.lean ====
section
/-!
DEFINITION. What an implementation fixes: the construction parameters of 00_scope.md rules R11 to R15, their defaults, and
the free values of the model (opaque constants: no proof can learn what they are).
-/

namespace Sys2Proof.Config

open Sys2Proof.Machine

/-- DI_PARITY (R14): how a discrete input is derived from a seeded input register at reset (R231). -/
inductive DiParity where
  /-- the element is bit 0 of the word (the default). -/
  | lsb
  /-- the element is the exclusive or of all sixteen bits. -/
  | xorAll
  deriving DecidableEq, Repr

/-- The parameters of R11 to R15. They are fixed for the lifetime of an instance (R28); SLAVE_ADDR (R9) is not among them,
since it is a register (R27). -/
structure Params where
  /-- MAX_FRAME_LEN (R11). -/
  maxFrameLen : Nat
  /-- IDX_REQ_COUNT (R12), a bank index in 1..20. -/
  idxReqCount : Nat
  /-- IDX_RX_BYTES (R12), a bank index in 1..20. -/
  idxRxBytes : Nat
  /-- IDX_TX_BYTES (R12), a bank index in 1..20. -/
  idxTxBytes : Nat
  /-- FN02_RANGE_CHECK (R13). -/
  fn02RangeCheck : Bool
  /-- DI_PARITY (R14). -/
  diParity : DiParity
  /-- IR_SEED (R15), element k of the vector for index k + 1; the entries at counter slots are not used. -/
  irSeed : Vector Word capIR
  /-- DO_RESET (R15). -/
  doReset : Vector Bool capDO
  /-- HR_RESET (R15). -/
  hrReset : Vector Word capHR
  deriving DecidableEq, Repr

/-- What R11 and R12 ask of the parameters: a buffer of at least 45 bytes, and three distinct counter slots in 1..20. -/
def Params.ok (p : Params) : Bool :=
  decide (minFrameBuffer ≤ p.maxFrameLen) &&
  decide (1 ≤ p.idxReqCount ∧ p.idxReqCount ≤ capIR) &&
  decide (1 ≤ p.idxRxBytes ∧ p.idxRxBytes ≤ capIR) &&
  decide (1 ≤ p.idxTxBytes ∧ p.idxTxBytes ≤ capIR) &&
  decide (p.idxReqCount ≠ p.idxRxBytes ∧ p.idxReqCount ≠ p.idxTxBytes ∧ p.idxRxBytes ≠ p.idxTxBytes)

/-- Is bank index `k` of IR a usage-counter slot (R12, R24)? -/
def Params.isCounterSlot (p : Params) (k : Nat) : Bool :=
  k == p.idxReqCount || k == p.idxRxBytes || k == p.idxTxBytes

/-- IR_SEED of the instance that `State.reset` constructs, by bank index: a draw at reset, never a fixed constant
(R15, R233; log entry 4). -/
opaque irSeed : Nat → Word

/-- The bits function 02 reads outside its bank when FN02_RANGE_CHECK is false: any value, afresh at each draw
(R143; log entry 9). -/
opaque freeBit : Nat → Bool

/-- The bytes a handler leaves in the two reserved checksum slots: any value (R126; log entry 8). -/
opaque freeByte : Nat → Byte

/-- The CRC register between transactions: any value, never read (R29, U10; log entry 7). -/
opaque freeCrc : Nat → Word

/-- What the response buffer holds after the host has taken the response: any bytes, never read (U10; log entry 7), of
which the buffer holds at most MAX_FRAME_LEN (R31, State.released). -/
opaque freeResponse : Nat → List Byte

end Sys2Proof.Config
end

