-- ==== Sys2Proof/Machine/Banks.lean ====
section
/-!
DEFINITION. The four register banks as 1-indexed vectors (10_state.md rules R21 to R25), reads and writes of their elements,
and the values they are constructed with (70_reset_and_hazards.md rules R230, R231).
-/

namespace Sys2Proof.Machine

open Sys2Proof.Config

/-- The bank with element `f k` at each index k = 1..n. -/
def bankOf {α : Type} (n : Nat) (f : Nat → α) : Vector α n :=
  Vector.ofFn (fun i => f (i.val + 1))

/-- `bank[k]` for k in 1..n; no other index exists, index 0 among them (R25). -/
def bankGet {α : Type} {n : Nat} (b : Vector α n) (k : Nat) : Option α :=
  if h : 1 ≤ k ∧ k ≤ n then some (b[k - 1]'(by omega)) else none

/-- `bank[k] <- v` for k in 1..n. -/
def bankPut {α : Type} {n : Nat} (b : Vector α n) (k : Nat) (v : α) : Option (Vector α n) :=
  if h : 1 ≤ k ∧ k ≤ n then some (b.set (k - 1) v (by omega)) else none

/-- `bank[k], bank[k+1], … <- v0, v1, …`, in that order; none if one of the indices does not exist. -/
def bankWrite {α : Type} {n : Nat} (b : Vector α n) (k : Nat) : List α → Option (Vector α n)
  | [] => some b
  | v :: vs =>
    match bankPut b k v with
    | some b' => bankWrite b' (k + 1) vs
    | none => none

/-- The reads f 0, f 1, …, f (m - 1) in that order, stopping at the first that has no answer. -/
def readAll {α : Type} : Nat → (Nat → Option α) → Option (List α)
  | 0, _ => some []
  | m + 1, f =>
    match f 0 with
    | some a => (readAll m (fun j => f (j + 1))).map (a :: ·)
    | none => none

/-- The elements `bank[off+1], …, bank[off+m]` (R18). -/
def bankRead {α : Type} {n : Nat} (b : Vector α n) (off m : Nat) : Option (List α) :=
  readAll m (fun j => bankGet b (off + 1 + j))

/-- `bank[k] <- (bank[k] + d) mod 2^16` (R210, R211); an index that does not exist is left alone. -/
def bankAdd {n : Nat} (b : Vector Word n) (k d : Nat) : Vector Word n :=
  match bankGet b k with
  | some v => (bankPut b k (v + BitVec.ofNat 16 d)).getD b
  | none => b

/-- PARITY(v) of R231. -/
def parity (d : DiParity) (v : Word) : Bool :=
  match d with
  | .lsb => v.getLsbD 0
  | .xorAll => (List.range 16).foldl (fun acc i => Bool.xor acc (v.getLsbD i)) false

/-- IR after reset: 0 in the counter slots, IR_SEED elsewhere (R230). -/
def seededIR (p : Params) : Vector Word capIR :=
  bankOf capIR (fun k => if p.isCounterSlot k then 0 else (bankGet p.irSeed k).getD 0)

/-- DI after reset: the parity of the IR element of the same index, after IR is loaded (R230, R231). -/
def derivedDI (p : Params) (ir : Vector Word capIR) : Vector Bool capDI :=
  bankOf capDI (fun k => parity p.diParity ((bankGet ir k).getD 0))

/-- The parameters of the instance that `State.reset` constructs: the defaults of 00_scope.md (R11 to R15), with IR_SEED a
draw (log entries 4 and 5). -/
def defaultParams : Params :=
  { maxFrameLen := 256
    idxReqCount := 18
    idxRxBytes := 19
    idxTxBytes := 20
    fn02RangeCheck := true
    diParity := .lsb
    irSeed := bankOf capIR Config.irSeed
    doReset := bankOf capDO (fun _ => false)
    hrReset := bankOf capHR (fun _ => 0) }

/-- The slave address of the instance that `State.reset` constructs (log entry 3). -/
def defaultSlaveAddr : Byte := 0x01

end Sys2Proof.Machine
end

