-- ==== Sys2Proof/Machine/State.lean ====
section
/-!
DEFINITION. The state of the block (10_state.md), the reasons a step can stop, and the state after reset (R35, R230).
-/

namespace Sys2Proof.Machine

open Sys2Proof.Config

/-- The four banks of R21 to R24. -/
inductive BankName where
  | DO | DI | HR | IR
  deriving DecidableEq, Repr

/-- The three exception codes of R200. -/
inductive ExceptionCode where
  | illegalFunction
  | illegalDataAddress
  | illegalDataValue
  deriving DecidableEq, Repr

/-- The four causes of a drop (R201). -/
inductive DropReason where
  /-- frame[0] differs from SLAVE_ADDR (R106 step 1). -/
  | addrMismatch
  /-- the trailer is not the checksum (R106 step 2). -/
  | crcMismatch
  /-- fewer than four bytes (R112). -/
  | tooShort
  /-- a handler needs a payload byte the frame does not have (R123). -/
  | short
  deriving DecidableEq, Repr

/-- The outcome of a transaction (R32): an observation-only annotation, which no rule reads (D35). -/
inductive TxOutcome where
  | normal
  | exception (code : ExceptionCode)
  | drop (reason : DropReason)
  deriving DecidableEq, Repr

/-- The six values of the sequencer phase (R30). Between steps only `idle` and `count` occur: the block waits in `count` with
RSP_VALID up until the host takes the response (R129; log entry 27). -/
inductive Phase where
  | idle | validate | dispatch | handle | seal | count
  deriving DecidableEq, Repr

/-- What the host can do to the block (R129, R230): there is no other event (R208). -/
inductive HostEvent where
  /-- REQ_VALID with the bytes of one deframed request. -/
  | request (frame : List Byte)
  /-- RSP_TAKEN. -/
  | taken
  /-- reset (construction) with CFG_SLAVE_ADDR and the parameters, CFG_IR_SEED among them. -/
  | reset (addr : Byte) (p : Params)
  deriving DecidableEq, Repr

/-- Everything the spec gives the block (R20, R35, R129), and two fields of the model's own, `host` and `draws`. -/
structure State where
  /-- Discrete outputs DO[1..20] (R21). -/
  DO : Vector Bool capDO
  /-- Discrete inputs DI[1..20] (R22). -/
  DI : Vector Bool capDI
  /-- Holding registers HR[1..10] (R23). -/
  HR : Vector Word capHR
  /-- Analog input registers IR[1..20], the usage counters among them (R24). -/
  IR : Vector Word capIR
  /-- SLAVE_ADDR (R27). -/
  slaveAddr : Byte
  /-- The parameters of R11 to R15 (R20, R28). -/
  cfg : Params
  /-- The request frame of the transaction in progress (R20, REQ of R129). -/
  req : List Byte
  /-- The response buffer RSP (R31); its length is rsp_len. -/
  rsp : List Byte
  /-- The CRC register (R29). -/
  crc : Word
  /-- The sequencer phase (R30). -/
  phase : Phase
  /-- RSP_VALID (R129). -/
  rspValid : Bool
  /-- The outcome of the last transaction (R32), an annotation. -/
  outcome : Option TxOutcome
  /-- MODEL: the host's events not yet delivered, first to come first (log entry 1). -/
  host : List HostEvent
  /-- MODEL: how many free values have been drawn (log entry 10). -/
  draws : Nat
  deriving DecidableEq, Repr

/-- Why a step stops with a fault. The block itself has no fault (R207). -/
inductive Fault where
  /-- A meaning asked a bank for an element that does not exist (R25, R51). Raised by the bank accesses of the handlers;
  safe, since it stops the model, and never reached, since every range check comes first. -/
  | absentElement (bank : BankName)
  deriving DecidableEq, Repr

/-- Why a step has no meaning. All are safe: the model stops where the host broke a duty, or where R143 gives no meaning. -/
inductive Refusal where
  /-- An instruction whose meaning is not written: raised by an arm of `exec` alone; safe. No arm raises it now. -/
  | notModelled (mnemonic : String)
  /-- A request offered while the block is not IDLE (R64, R129, R235(a), R235(b)); raised by `deliver`; safe. -/
  | requestWhileBusy
  /-- A request longer than MAX_FRAME_LEN (R130, R235(c)); raised by `deliver`; safe. -/
  | requestTooLong
  /-- Reset asserted while the block is not IDLE (R234, R235(d)); raised by `deliver`; safe. -/
  | resetWhileBusy
  /-- Construction with parameters that break R11 or R12 (log entry 13); raised by `deliver`; safe. -/
  | illegalParameters
  /-- RSP_TAKEN with no response outstanding, which R129 gives no meaning (log entry 11); raised by `deliver`; safe. -/
  | nothingToTake
  /-- Function 02 without its range check, for a response that the BC byte or the buffer cannot hold (R143); raised by
  the meaning of RDI; safe. -/
  | oversizeDiscreteRead
  deriving DecidableEq, Repr

/-- RESET(cfg_addr, …) of R230: the state of an instance just constructed. CRC register, response buffer and request frame
have values the model names (log entry 6). -/
def State.construct (addr : Byte) (p : Params) : State :=
  { DO := p.doReset
    DI := derivedDI p (seededIR p)
    HR := p.hrReset
    IR := seededIR p
    slaveAddr := addr
    cfg := p
    req := []
    rsp := []
    crc := 0
    phase := .idle
    rspValid := false
    outcome := none
    host := []
    draws := 0 }

/-- The machine right after reset, with the spec's default parameters (R35, R230; log entries 1 and 3 to 6). -/
def State.reset : State := State.construct defaultSlaveAddr defaultParams

end Sys2Proof.Machine
end

