-- ==== Sys2Proof/Machine/Flags.lean ====
section
/-!
DEFINITION. The block has no flags register and no condition codes (R32). What a host can tell from a response is bit 7 of
its byte 1 (R203), and the code byte of an exception (R200).
-/

namespace Sys2Proof.Machine

/-- The byte that reports an exception (R200). -/
def ExceptionCode.byte : ExceptionCode → Byte
  | .illegalFunction => 0x01
  | .illegalDataAddress => 0x02
  | .illegalDataValue => 0x03

/-- Byte 1 of an exception response: the function code with bit 7 set; a code that has it already is unchanged (R81). -/
def exceptionMark (fc : Byte) : Byte := fc ||| 0x80

/-- Bit 7 of byte 1, by which a host tells an exception from a normal response (R203). -/
def marksException (rsp : List Byte) : Bool := (rsp.getD 1 0).getLsbD 7

end Sys2Proof.Machine
end

