-- ==== Sys2Proof/Machine/Operands.lean ====
section
/-!
DEFINITION. What the handlers make of their operands: range and count checks in exact arithmetic (R77), packed bits (R140,
R170) and register data (R146, R174).
-/

namespace Sys2Proof.Machine

/-- `offset + N <= CAP`, in natural numbers that do not wrap (R18, R51, R77). -/
def inRange (cap off n : Nat) : Bool := decide (off + n ≤ cap)

/-- `1 <= N and N <= 0x7B and BC = 2*N` (R145, R174). -/
def countOk (n : Word) (bc : Byte) : Bool :=
  decide (1 ≤ n.toNat) && decide (n.toNat ≤ maxRwCount) && decide (bc.toNat = 2 * n.toNat)

/-- `ceil(n/8)` (R16). -/
def packedLen (n : Nat) : Nat := (n + 7) / 8

/-- One packed byte: the first element at bit 7, the next at bit 6, and so on; missing elements are 0 bits (R54, R140). -/
def packByte (g : List Bool) : Byte :=
  (List.range 8).foldl (fun d j => d ||| ((BitVec.ofBool (g.getD j false)).setWidth 8 <<< (7 - j))) 0

/-- PACK of R140 on the elements in index order: byte k holds elements 8k .. 8k+7. -/
def packBits (bits : List Bool) : List Byte :=
  (List.range (packedLen bits.length)).map (fun k => packByte ((bits.drop (8 * k)).take 8))

/-- Element j of packed data: bit 7 - (j mod 8) of byte j div 8 (R170); none where the data ends before that byte. -/
def packedBit (data : List Byte) (j : Nat) : Option Bool :=
  (data[j / 8]?).map (fun b => b.getLsbD (7 - j % 8))

/-- UNPACK(n) of R170; none is Drop(Short). -/
def unpackBits (n : Nat) (data : List Byte) : Option (List Bool) :=
  readAll n (packedBit data)

/-- Word k of register data, a big-endian pair (R76, R174); none where the data ends before the pair does. -/
def dataWord (data : List Byte) (k : Nat) : Option Word :=
  match data[2 * k]?, data[2 * k + 1]? with
  | some hi, some lo => some (wordOf hi lo)
  | _, _ => none

/-- The n words of a function 16 request (R174); none is Drop(Short). -/
def dataWords (n : Nat) (data : List Byte) : Option (List Word) :=
  readAll n (dataWord data)

/-- Register data of a response, each word high byte first (R146). -/
def wordsToBytes (ws : List Word) : List Byte := ws.flatMap bigEndian

end Sys2Proof.Machine
end

