-- ==== Sys2Proof/Machine/Ops.lean ====
section
/-!
DEFINITION. The named operations over State: the three ends of a handler (normal response, exception, drop), the reads and
writes of banks through their error, and the phases before and after the handler (R120).
-/

namespace Sys2Proof.Machine

/-- What a meaning or a phase answers. -/
abbrev Result := Host.Outcome State Fault Refusal

/-- REQ_READY (R129): a request is accepted only in IDLE. -/
def State.reqReady (s : State) : Bool := decide (s.phase = .idle)

/-- The event at the head of the host's schedule is delivered; `rest` is still to come (log entry 1). -/
def State.scheduled (s : State) (rest : List HostEvent) : State := { s with host := rest }

/-- DO <- bank. -/
def State.setDO (s : State) (bank : Vector Bool capDO) : State := { s with DO := bank }

/-- HR <- bank. -/
def State.setHR (s : State) (bank : Vector Word capHR) : State := { s with HR := bank }

/-- `k` free values have been drawn (log entry 10). -/
def State.drew (s : State) (k : Nat) : State := { s with draws := s.draws + k }

/-- A response buffer with two reserved checksum slots, whose bytes are free (R126; log entry 8); the handler is done and the
sealer is next (R30). -/
def State.respond (s : State) (o : TxOutcome) (body : List Byte) : State :=
  { s with
    rsp := body ++ [Config.freeByte s.draws, Config.freeByte (s.draws + 1)]
    draws := s.draws + 2
    outcome := some o
    phase := .seal }

/-- `emit(body)`: the handler ends with a normal response (R17, R125). -/
def emit (body : List Byte) (s : State) : Result :=
  .next (s.respond .normal body)

/-- TAKING AN EXCEPTION (R200, R203, R206): the handler ends with the response [address, code OR 0x80, exception code]. No
bank is written and nothing is saved: there is no cause register, saved address, mode, vector or handler. RETURNING from it
takes nothing (R207): the transaction goes on to its sealing and counting like any other, and the next one starts from IDLE
with no memory of it. The address byte is SLAVE_ADDR, which a validated frame's byte 0 equals (R127; log entry 16). -/
def takeException (fc : Byte) (code : ExceptionCode) (s : State) : Result :=
  .next (s.respond (.exception code) [s.slaveAddr, exceptionMark fc, code.byte])

/-- `drop(reason)`: an empty response, straight to COUNT (R17, R30, R201). -/
def State.dropped (s : State) (reason : DropReason) : State :=
  { s with rsp := [], outcome := some (.drop reason), phase := .count }

/-- A handler that ends in Drop(Short) (R123). -/
def dropShort (s : State) : Result := .next (s.dropped .short)

/-- The normal response of a read function: [address, code, BC] and the data (RS-READ, R75). -/
def emitRead (fc : FunctionCode) (data : List Byte) (s : State) : Result :=
  emit ([s.slaveAddr, fc.byte, BitVec.ofNat 8 data.length] ++ data) s

/-- The normal response of a write function: the six header bytes of the request (RS-ECHO, R75). -/
def emitEcho (fc : FunctionCode) (off q : Word) (s : State) : Result :=
  emit (s.slaveAddr :: header fc.byte off q) s

/-- A read function on a bank of bits: the N elements packed (R140); an absent element would be a fault. -/
def readBits {n : Nat} (name : BankName) (bank : Vector Bool n) (fc : FunctionCode) (off m : Nat) (s : State) : Result :=
  match bankRead bank off m with
  | some bits => emitRead fc (packBits bits) s
  | none => .fault (.absentElement name)

/-- A read function on a bank of words: the N elements high byte first (R146); an absent element would be a fault. -/
def readWords {n : Nat} (name : BankName) (bank : Vector Word n) (fc : FunctionCode) (off m : Nat) (s : State) : Result :=
  match bankRead bank off m with
  | some ws => emitRead fc (wordsToBytes ws) s
  | none => .fault (.absentElement name)

/-- DO[off+1], DO[off+2], … <- bits, then the echo; an absent element would be a fault. -/
def writeDO (fc : FunctionCode) (off q : Word) (bits : List Bool) (s : State) : Result :=
  match bankWrite s.DO (off.toNat + 1) bits with
  | some bank => emitEcho fc off q (s.setDO bank)
  | none => .fault (.absentElement .DO)

/-- HR[off+1], HR[off+2], … <- words, then the echo; an absent element would be a fault. -/
def writeHR (fc : FunctionCode) (off q : Word) (ws : List Word) (s : State) : Result :=
  match bankWrite s.HR (off.toNat + 1) ws with
  | some bank => emitEcho fc off q (s.setHR bank)
  | none => .fault (.absentElement .HR)

/-- Element j of a function 02 read without the range check: DI[off+1+j] where it exists, else a free bit (R143). -/
def gapBit (s : State) (off j : Nat) : Bool :=
  (bankGet s.DI (off + 1 + j)).getD (Config.freeBit (s.draws + j))

/-- Function 02 without the range check (R143): refused where the BC byte or the buffer cannot hold the response; each
out-of-range bit is a draw of its own. -/
def readGap (off m : Nat) (s : State) : Result :=
  if 255 < packedLen m ∨ s.cfg.maxFrameLen < 5 + packedLen m then .refused .oversizeDiscreteRead
  else
    emitRead .rdi (packBits ((List.range m).map (gapBit s off))) (s.drew m)

/-- The generator run over `m`: INIT, then STEP for each byte (R105); the result stays in the CRC register. -/
def State.crcRun (s : State) (m : List Byte) : State := { s with crc := crcOver m }

/-- The VALIDATE decision of R106: none is Pass. -/
def validate (addr : Byte) (frame : List Byte) : Option DropReason :=
  if frame.length < 4 then some .tooShort
  else if frame.getD 0 0 ≠ addr then some .addrMismatch
  else if crc16 (payload frame) ≠ (frame.getD (frame.length - 2) 0, frame.getD (frame.length - 1) 0) then some .crcMismatch
  else none

/-- IDLE accepts a request (R129): the frame is in the block, RSP_VALID is down, VALIDATE is next. -/
def State.accept (s : State) (frame : List Byte) : State :=
  { s with req := frame, rspValid := false, phase := .validate }

/-- VALIDATE has passed (R30): the CRC register holds the request's checksum, and DISPATCH is next. -/
def State.validated (s : State) : State :=
  { s.crcRun (payload s.req) with phase := .dispatch }

/-- DISPATCH has selected a handler (R30, R121). -/
def State.handling (s : State) : State := { s with phase := .handle }

/-- The CRC register after SEAL (R109): run over all bytes of a non-empty response but the last two, else untouched. -/
def State.sealCrc (s : State) : Word :=
  if s.rsp.isEmpty then s.crc else crcOver (s.rsp.take (s.rsp.length - 2))

/-- SEAL of R109: an empty response passes through; otherwise its last two bytes become the result of the generator, low byte
first. COUNT is next. -/
def State.sealed (s : State) : State :=
  { s with
    crc := s.sealCrc
    rsp := if s.rsp.isEmpty then [] else s.rsp.take (s.rsp.length - 2) ++ littleEndian s.sealCrc
    phase := .count }

/-- COUNT(len, rsp_len) of R210. -/
def State.counted (s : State) : State :=
  { s with
    IR := bankAdd (bankAdd (bankAdd s.IR s.cfg.idxReqCount 1) s.cfg.idxRxBytes s.req.length) s.cfg.idxTxBytes s.rsp.length }

/-- The end of a transaction: RSP_VALID goes up after COUNT (R129); the request is gone and the CRC register holds any value
(R20, U10; log entry 7). -/
def State.completed (s : State) : State :=
  { s with rspValid := true, req := [], crc := Config.freeCrc s.draws, draws := s.draws + 1 }

/-- Sealing, counting and completion, for every outcome (R120, R127, R210). -/
def State.finish (s : State) : State := s.sealed.counted.completed

/-- What the response buffer holds between transactions: any 0 to MAX_FRAME_LEN bytes (R31, U10; log entry 7). -/
def State.freeBuffer (s : State) : List Byte := (Config.freeResponse s.draws).take s.cfg.maxFrameLen

/-- RSP_TAKEN: the block returns to IDLE (R129), and the response buffer holds any bytes that fit it. -/
def State.released (s : State) : State :=
  { s with phase := .idle, rspValid := false, rsp := s.freeBuffer, draws := s.draws + 1 }

/-- Reset of a running instance (R230): a new construction; the model's own fields, the host's schedule and the count of
draws, go on (log entry 14). -/
def State.reconstruct (s : State) (addr : Byte) (p : Config.Params) : State :=
  { State.construct addr p with host := s.host, draws := s.draws }

end Sys2Proof.Machine
end

