-- ==== Sys2Proof/Machine/IllegalFunction.lean ====
section
/-!
DEFINITION. The illegal function codes (41_dispatch.md rule R122).
-/

namespace Sys2Proof.Machine

/-- Any code outside the eight: exception 0x01, with no further processing (R122). -/
def execIllegal (fc : Byte) (s : State) : Result :=
  takeException fc .illegalFunction s

end Sys2Proof.Machine
end

