-- ==== Sys2Proof/Machine/ReadFunctions.lean ====
section
/-!
DEFINITION. The read functions 01, 02, 03, 04 (42_read_functions.md). None writes a bank.
-/

namespace Sys2Proof.Machine

/-- H_RDO (R141). -/
def execRdo (off n : Word) (s : State) : Result :=
  if inRange capDO off.toNat n.toNat then readBits .DO s.DO .rdo off.toNat n.toNat s
  else takeException FunctionCode.rdo.byte .illegalDataAddress s

/-- H_RDI (R142), and its form without the range check (R143). -/
def execRdi (off n : Word) (s : State) : Result :=
  if s.cfg.fn02RangeCheck then
    if inRange capDI off.toNat n.toNat then readBits .DI s.DI .rdi off.toNat n.toNat s
    else takeException FunctionCode.rdi.byte .illegalDataAddress s
  else readGap off.toNat n.toNat s

/-- H_RHR (R144). -/
def execRhr (off n : Word) (s : State) : Result :=
  if inRange capHR off.toNat n.toNat then readWords .HR s.HR .rhr off.toNat n.toNat s
  else takeException FunctionCode.rhr.byte .illegalDataAddress s

/-- H_RIR (R145): the count check comes first. -/
def execRir (off n : Word) (bc : Byte) (s : State) : Result :=
  if countOk n bc then
    if inRange capIR off.toNat n.toNat then readWords .IR s.IR .rir off.toNat n.toNat s
    else takeException FunctionCode.rir.byte .illegalDataAddress s
  else takeException FunctionCode.rir.byte .illegalDataValue s

end Sys2Proof.Machine
end

