-- ==== Sys2Proof/Machine/WriteFunctions.lean ====
section
/-!
DEFINITION. The write functions 05, 06, 15, 16 (43_write_functions.md). Every check and every read of the request comes
before the first write of a bank (R175).
-/

namespace Sys2Proof.Machine

/-- H_WDO (R171): the value check comes first; 0xFF00 is logical 1 and 0x0000 logical 0. -/
def execWdo (off v : Word) (s : State) : Result :=
  if v = coilOn ∨ v = coilOff then
    if inRange capDO off.toNat 1 then writeDO .wdo off v [decide (v = coilOn)] s
    else takeException FunctionCode.wdo.byte .illegalDataAddress s
  else takeException FunctionCode.wdo.byte .illegalDataValue s

/-- H_WHR (R172): every value is stored as it is. -/
def execWhr (off v : Word) (s : State) : Result :=
  if inRange capHR off.toNat 1 then writeHR .whr off v [v] s
  else takeException FunctionCode.whr.byte .illegalDataAddress s

/-- H_WDON (R173): the range check, then the data; the byte count `_bc` is not read (D20). -/
def execWdon (off n : Word) (_bc : Option Byte) (data : List Byte) (s : State) : Result :=
  if inRange capDO off.toNat n.toNat then
    match unpackBits n.toNat data with
    | some bits => writeDO .wdon off n bits s
    | none => dropShort s
  else takeException FunctionCode.wdon.byte .illegalDataAddress s

/-- H_WHRN (R174): the count check, the range check, then the data. -/
def execWhrn (off n : Word) (bc : Byte) (data : List Byte) (s : State) : Result :=
  if countOk n bc then
    if inRange capHR off.toNat n.toNat then
      match dataWords n.toNat data with
      | some ws => writeHR .whrn off n ws s
      | none => dropShort s
    else takeException FunctionCode.whrn.byte .illegalDataAddress s
  else takeException FunctionCode.whrn.byte .illegalDataValue s

end Sys2Proof.Machine
end

