-- ==== Sys2Proof/Machine/Dispatch.lean ====
section
/-! DEFINITION. DISPATCH (R121): exactly one handler runs per validated frame. -/

namespace Sys2Proof.Machine

def exec (i : Instr) (s : State) : Host.Outcome State Fault Refusal :=
  match i with
  | .rdo off n => Sys2Proof.Machine.execRdo off n s
  | .rdi off n => Sys2Proof.Machine.execRdi off n s
  | .rhr off n => Sys2Proof.Machine.execRhr off n s
  | .rir off n bc => Sys2Proof.Machine.execRir off n bc s
  | .wdo off v => Sys2Proof.Machine.execWdo off v s
  | .whr off v => Sys2Proof.Machine.execWhr off v s
  | .wdon off n bc data => Sys2Proof.Machine.execWdon off n bc data s
  | .whrn off n bc data => Sys2Proof.Machine.execWhrn off n bc data s
  | .illegal fc => Sys2Proof.Machine.execIllegal fc s

end Sys2Proof.Machine
end

