-- ==== Sys2Proof/Machine/Transaction.lean ====
section
/-!
DEFINITION. TRANSACT (R120), and the delivery of one host event (R129, R230, R235).
-/

namespace Sys2Proof.Machine

/-- What follows a handler that ended: sealing, counting, completion. A fault or refusal of the handler stops the step. -/
def finishResult (r : Result) : Result :=
  match r with
  | .next t => .next t.finish
  | .fault f => .fault f
  | .refused f => .refused f

/-- DISPATCH and HANDLE on a validated frame (R121): the parser's instruction runs; a frame too short for the header fields
its handler reads is dropped (R123, R124). -/
def dispatch (s : State) : Result :=
  match decode s.req with
  | .ok i => exec i s.handling
  | .error _ => dropShort s

/-- TRANSACT on the accepted frame (R120): one atomic step, counted whatever its outcome (R210). -/
def transact (s : State) : Result :=
  match validate s.slaveAddr s.req with
  | some reason => .next (s.dropped reason).finish
  | none => finishResult (dispatch s.validated)

/-- One host event. The host's duties are R235: a step that breaks one is refused. -/
def deliver (e : HostEvent) (s : State) : Result :=
  match e with
  | .request frame =>
    if s.phase ≠ .idle then .refused .requestWhileBusy
    else if s.cfg.maxFrameLen < frame.length then .refused .requestTooLong
    else transact (s.accept frame)
  | .taken =>
    if s.rspValid then .next s.released else .refused .nothingToTake
  | .reset addr p =>
    if s.phase ≠ .idle then .refused .resetWhileBusy
    else if p.ok then .next (s.reconstruct addr p)
    else .refused .illegalParameters

/-- The next event of the host's schedule, or no event: the block keeps all its state (R217; log entry 15). -/
def nextEvent (s : State) : Result :=
  match s.host with
  | [] => .next s
  | e :: rest => deliver e (s.scheduled rest)

/-- `frame` offered as the next event to a block that is IDLE with no response outstanding. -/
def State.offer (s : State) (frame : List Byte) : State :=
  { s with host := .request frame :: s.host, phase := .idle, rspValid := false }

end Sys2Proof.Machine
end

