-- ==== Sys2Proof/Machine/Step.lean ====
section
/-! DEFINITION. One step: one host event handled whole (R30, R120, R237). -/

namespace Sys2Proof.Machine

/-- One step of the machine. -/
def step (s : State) : Host.Outcome State Fault Refusal := nextEvent s

/-- `s` with the request of a table row offered as the next event: its address byte is the block's own and its checksum is
right, so that the next step validates, dispatches and runs it (log entries 1, 19 and 25). -/
def State.withFetchWord (s : State) (nbits w : Nat) : State :=
  s.offer (tableFrame s.slaveAddr nbits w)

end Sys2Proof.Machine
end

