-- ==== Sys2Proof/Safety.lean ====
section
/-!
DEFINITION. The terms claims are stated in: what a handler leaves alone, what a response holds, the invariant of the block
between steps, and the order of failures of R204 as one list.
-/

namespace Sys2Proof.Machine

/-! ### Steps and requests -/

/-- A step that ends in a next state. -/
def Completes (r : Result) : Prop := ∃ t, r = .next t

/-- A step that is no fault (R200, R207). -/
def NeverFaults (r : Result) : Prop := ∀ e, r ≠ .fault e

/-- `frame` is the host's next event, and the host has kept its duties of R235: the block is IDLE and the frame is no longer
than MAX_FRAME_LEN. -/
def State.Offered (s : State) (frame : List Byte) : Prop :=
  s.host.head? = some (.request frame) ∧ s.phase = .idle ∧ frame.length ≤ s.cfg.maxFrameLen

/-- An offered frame that passes the validator (R106). -/
def State.OfferedValid (s : State) (frame : List Byte) : Prop :=
  s.Offered frame ∧ validate s.slaveAddr frame = none

/-- The state a handler starts in when the validated `frame` is dispatched and `rest` is what the host does next. -/
def State.atHandler (s : State) (frame : List Byte) (rest : List HostEvent) : State :=
  { s with
    host := rest
    req := frame
    rspValid := false
    crc := crcOver (payload frame)
    phase := .handle }

/-! ### What a handler answers and what it leaves alone -/

/-- The handler changed nothing but the response, its annotation, the phase and the count of draws. -/
def OnlyResponse (s t : State) : Prop :=
  t = { s with rsp := t.rsp, outcome := t.outcome, phase := t.phase, draws := t.draws }

/-- The handler changed, besides, the DO bank and nothing else. -/
def OnlyResponseAndDO (s t : State) : Prop :=
  t = { s with DO := t.DO, rsp := t.rsp, outcome := t.outcome, phase := t.phase, draws := t.draws }

/-- The handler changed, besides, the HR bank and nothing else. -/
def OnlyResponseAndHR (s t : State) : Prop :=
  t = { s with HR := t.HR, rsp := t.rsp, outcome := t.outcome, phase := t.phase, draws := t.draws }

/-- The handler ended with outcome `o` and a buffer of `body` and two reserved slots, whatever they hold (R126). -/
def Answers (t : State) (o : TxOutcome) (body : List Byte) : Prop :=
  t.outcome = some o ∧ t.phase = .seal ∧ t.rsp.length = body.length + 2 ∧ t.rsp.take body.length = body

/-- `data` is the elements off+1 .. off+n of a bank of bits, packed most significant bit first from the lowest index, the
last byte padded with 0 bits (R54, R140). -/
def PacksBank {c : Nat} (bank : Vector Bool c) (off n : Nat) (data : List Byte) : Prop :=
  data.length = packedLen n ∧
  ∀ j, j < 8 * data.length →
    packedBit data j = if j < n then bankGet bank (off + 1 + j) else some false

/-- `data` is the elements off+1 .. off+n of a bank of words, each high byte first (R146). -/
def ServesBank {c : Nat} (bank : Vector Word c) (off n : Nat) (data : List Byte) : Prop :=
  data.length = 2 * n ∧
  ∀ k, k < n →
    data[2 * k]? = (bankGet bank (off + 1 + k)).map hiByte ∧
    data[2 * k + 1]? = (bankGet bank (off + 1 + k)).map loByte

/-- The body of a read response (RS-READ, R75). -/
def readBody (s : State) (code : Byte) (data : List Byte) : List Byte :=
  [s.slaveAddr, code, BitVec.ofNat 8 data.length] ++ data

/-- The body of an echo (RS-ECHO, R75): OFF and Q high byte first. -/
def echoBody (s : State) (code : Byte) (off q : Word) : List Byte :=
  [s.slaveAddr, code, hiByte off, loByte off, hiByte q, loByte q]

/-- The body of an exception response (RS-EXC, R75, R203). -/
def exceptionBody (s : State) (code ec : Byte) : List Byte :=
  [s.slaveAddr, code ||| 0x80, ec]

/-- The handler of `i` ended with the exception `c` and changed nothing else (R206). -/
def RaisesException (i : Instr) (s : State) (c : ExceptionCode) : Prop :=
  ∃ t, exec i s = .next t ∧ Answers t (.exception c) (exceptionBody s i.fc c.byte) ∧ OnlyResponse s t

/-- OFF and Q of an instruction (R124); an illegal code has none (R122). -/
def headerFields : Instr → Option (Word × Word)
  | .rdo off n | .rdi off n | .rhr off n => some (off, n)
  | .rir off n _ => some (off, n)
  | .wdo off v | .whr off v => some (off, v)
  | .wdon off n _ _ => some (off, n)
  | .whrn off n _ _ => some (off, n)
  | .illegal _ => none

/-- The banks a request may never change but through a handler's write (R175) or not at all (R22). -/
def SameBanks (s t : State) : Prop := t.DO = s.DO ∧ t.DI = s.DI ∧ t.HR = s.HR

/-- The configuration (R27, R28). -/
def SameConfig (s t : State) : Prop := t.slaveAddr = s.slaveAddr ∧ t.cfg = s.cfg

/-- The IR bank changed in nothing but the three counters, which grew by 1, `len` and `rspLen` modulo 2^16 (R210, R211). -/
def CountersMoved (s t : State) (len rspLen : Nat) : Prop :=
  bankGet t.IR s.cfg.idxReqCount = (bankGet s.IR s.cfg.idxReqCount).map (· + 1) ∧
  bankGet t.IR s.cfg.idxRxBytes = (bankGet s.IR s.cfg.idxRxBytes).map (· + BitVec.ofNat 16 len) ∧
  bankGet t.IR s.cfg.idxTxBytes = (bankGet s.IR s.cfg.idxTxBytes).map (· + BitVec.ofNat 16 rspLen) ∧
  ∀ k, s.cfg.isCounterSlot k = false → bankGet t.IR k = bankGet s.IR k

/-! ### The invariant between steps -/

/-- What holds of the block between any two host events. -/
structure State.Inv (s : State) : Prop where
  /-- The parameters obey R11 and R12. -/
  params : s.cfg.ok = true
  /-- The block is IDLE with no response, or holds a response in COUNT until the host takes it (R30, R129). -/
  handshake : (s.phase = .idle ∧ s.rspValid = false) ∨ (s.phase = .count ∧ s.rspValid = true)
  /-- A response on offer is empty, or it is a frame a validator of this address passes (R110). -/
  sealed : s.rspValid = true → s.rsp = [] ∨ validate s.slaveAddr s.rsp = none
  /-- It is empty exactly when the transaction was a drop (R32, R201). -/
  silent : s.rspValid = true → (s.rsp = [] ↔ ∃ r, s.outcome = some (.drop r))
  /-- The response buffer never holds more than MAX_FRAME_LEN bytes, IDLE or not (R31). -/
  fits : s.rsp.length ≤ s.cfg.maxFrameLen
  /-- While function 02 has its range check, a response on offer has at most 45 bytes (R128). -/
  longest : s.rspValid = true → s.cfg.fn02RangeCheck = true → s.rsp.length ≤ minFrameBuffer

/-! ### The order of failures (R202, R204), read from the bytes of the frame -/

/-- Byte i of a frame as a number. -/
def byteAt (f : List Byte) (i : Nat) : Nat := (f.getD i 0).toNat

/-- OFF of a frame (R76). -/
def offOf (f : List Byte) : Nat := byteAt f 2 * 256 + byteAt f 3

/-- Q of a frame: N, or V of functions 05 and 06 (R76, R124). -/
def qOf (f : List Byte) : Nat := byteAt f 4 * 256 + byteAt f 5

/-- Is the function code none of the eight (R79)? -/
def illegalCode (fc : Nat) : Bool := fc == 0 || (7 ≤ fc && fc ≤ 0x0E) || 0x11 ≤ fc

/-- Step 5 of R204: the header read needs len >= 8, and len >= 9 for function 16. -/
def headerShort (f : List Byte) : Bool :=
  f.length < 8 || (byteAt f 1 == 0x10 && f.length < 9)

/-- Step 6 of R204, the column of 0x03 in R202. -/
def valueRejected (f : List Byte) : Bool :=
  match byteAt f 1 with
  | 0x04 => qOf f == 0 || 0x7B < qOf f || byteAt f 6 != 2 * qOf f
  | 0x05 => qOf f != 0x0000 && qOf f != 0xFF00
  | 0x10 => qOf f == 0 || 0x7B < qOf f || byteAt f 6 != 2 * qOf f
  | _ => false

/-- Step 7 of R204, the column of 0x02 in R202; function 02 has it only where FN02_RANGE_CHECK (`check02`) is true (R143). -/
def rangeRejected (check02 : Bool) (f : List Byte) : Bool :=
  match byteAt f 1 with
  | 0x01 => 20 < offOf f + qOf f
  | 0x02 => check02 && 20 < offOf f + qOf f
  | 0x03 => 10 < offOf f + qOf f
  | 0x04 => 20 < offOf f + qOf f
  | 0x05 => 20 < offOf f + 1
  | 0x06 => 10 < offOf f + 1
  | 0x0F => 20 < offOf f + qOf f
  | 0x10 => 10 < offOf f + qOf f
  | _ => false

/-- Step 8 of R204: the data field of functions 15 and 16 ends too early. Function 15 with N = 0 needs no data byte, and no
byte 6 either (log entry 17). -/
def dataShort (f : List Byte) : Bool :=
  match byteAt f 1 with
  | 0x0F => f.length < 9 + (qOf f + 7) / 8 && qOf f != 0
  | 0x10 => f.length < 9 + 2 * qOf f
  | _ => false

/-- The eight steps of R204, in order, each with the outcome it gives. -/
def failureOrder (check02 : Bool) (addr : Byte) (f : List Byte) : List (Bool × TxOutcome) :=
  [ (f.length < 4, .drop .tooShort),
    (f.getD 0 0 != addr, .drop .addrMismatch),
    (crc16 (payload f) != (f.getD (f.length - 2) 0, f.getD (f.length - 1) 0), .drop .crcMismatch),
    (illegalCode (byteAt f 1), .exception .illegalFunction),
    (headerShort f, .drop .short),
    (valueRejected f, .exception .illegalDataValue),
    (rangeRejected check02 f, .exception .illegalDataAddress),
    (dataShort f, .drop .short) ]

/-- The outcome of the first failure that applies, or Normal (R204). -/
def priorityOutcome (check02 : Bool) (addr : Byte) (f : List Byte) : TxOutcome :=
  match (failureOrder check02 addr f).find? (·.1) with
  | some (_, o) => o
  | none => .normal

/-- The outcome the order of R204 gives the frame on this instance. -/
def State.expectedOutcome (s : State) (f : List Byte) : TxOutcome :=
  priorityOutcome s.cfg.fn02RangeCheck s.slaveAddr f

/-- A function 02 read without its range check that no failure stops, for a response that the BC byte or the buffer cannot
hold: the one request to which R143 gives no meaning. -/
def State.OversizeGapRead (s : State) (f : List Byte) : Prop :=
  s.expectedOutcome f = .normal ∧ byteAt f 1 = 0x02 ∧ s.cfg.fn02RangeCheck = false ∧
    (255 < (qOf f + 7) / 8 ∨ s.cfg.maxFrameLen < 5 + (qOf f + 7) / 8)

end Sys2Proof.Machine
end

