-- ==== Sys2Proof/Certificates/Slice0/Obligations.lean ====
section
/-!
DEFINITION. The statements for the provers. Each docstring names the rule of spec/ the statement formalises. None rests on a
value that the assumption log marks as the model's own choice, unless its docstring says so.
-/

open Sys2Proof Sys2Proof.Machine

/-! ### The CRC generator, the validator and the sealer (40_crc.md) -/

/-- R100's worked example, R101's trace ends, and check values of 95_test_vectors.md section 2. -/
def Obligations.CrcCheckValues : Prop :=
  crcOver [] = 0xFFFF ∧
  crcOver [0x01] = 0x807E ∧
  crcOver [0x01, 0x03, 0x00, 0x00, 0x00, 0x0A] = 0xCDC5 ∧
  crcOver [0x31, 0x32, 0x33, 0x34, 0x35, 0x36, 0x37, 0x38, 0x39] = 0x4B37

/-- R102: the bit-serial generator computes the byte step, from every register value and for every byte. -/
def Obligations.CrcBitSerialAgrees : Prop :=
  ∀ (c : Word) (b : Byte), crcSerialByte c b = crcStep c b

/-- R111: a message followed by its own checksum leaves 0; no other trailer does; so a validator that looks for a zero
residue over the whole frame decides as R106 does on every frame of at least four bytes. -/
def Obligations.CrcResidueDecides : Prop :=
  (∀ m : List Byte, crcOver (m ++ [(crc16 m).1, (crc16 m).2]) = 0) ∧
  (∀ (m : List Byte) (a b : Byte), crcOver (m ++ [a, b]) = 0 → (a, b) = crc16 m) ∧
  (∀ (addr : Byte) (f : List Byte), 4 ≤ f.length → f.getD 0 0 = addr →
    (validate addr f = none ↔ crcOver f = 0))

/-- R110: a body of at least two bytes that starts with the address, followed by its checksum, passes the validator; and so
does every non-empty response that a request's step leaves on offer. -/
def Obligations.SealThenValidate : Prop :=
  (∀ (addr : Byte) (b : List Byte), 2 ≤ b.length → b.getD 0 0 = addr → validate addr (sealFrame b) = none) ∧
  (∀ (s t : State) (f : List Byte), s.Offered f → step s = .next t → t.rsp ≠ [] → validate s.slaveAddr t.rsp = none)

/-- R109, R126: an empty response passes through the sealer; any other keeps all but its last two bytes, and those two become
the checksum of the rest, low byte first, whatever the handler left in them; nothing else but the CRC register and the phase
changes; and the rule's worked example. -/
def Obligations.SealerOverwritesReservedSlots : Prop :=
  (∀ s : State, s.rsp = [] → s.sealed.rsp = []) ∧
  (∀ (s : State) (body : List Byte) (r0 r1 : Byte), s.rsp = body ++ [r0, r1] →
    s.sealed.rsp = body ++ [(crc16 body).1, (crc16 body).2] ∧ s.sealed.rsp.length = s.rsp.length) ∧
  (∀ s : State, s.sealed = { s with rsp := s.sealed.rsp, crc := s.sealed.crc, phase := .count }) ∧
  sealFrame [0x01, 0x06, 0x00, 0x03, 0x00, 0xAB] = [0x01, 0x06, 0x00, 0x03, 0x00, 0xAB, 0x38, 0x75]

/-! ### Encoding (30_encoding.md) -/

/-- Every well-formed instruction, at every value of every operand, is what the parser reads from its own frame, and that
frame passes the validator of the slave it is addressed to. -/
def Obligations.DecodeEncodeRoundTrip : Prop :=
  ∀ (addr : Byte) (i : Instr), i.wellFormed = true →
    decode (encode addr i) = .ok i ∧ validate addr (encode addr i) = none

/-- A few frames of the spec's examples, written out byte by byte, and the instruction each stands for. -/
def Obligations.WrittenFramesDecode : Prop :=
  decode [0x01, 0x01, 0x00, 0x13, 0x00, 0x01, 0x0C, 0x0F] = .ok (.rdo 0x13 1) ∧
  decode [0x01, 0x04, 0x00, 0x11, 0x00, 0x03, 0x06, 0x8F, 0x8A] = .ok (.rir 0x11 3 6) ∧
  decode [0x01, 0x06, 0x01, 0x03, 0x00, 0x01, 0xB9, 0xF6] = .ok (.whr 0x0103 1) ∧
  decode [0x01, 0x0F, 0x00, 0x02, 0x00, 0x05, 0x01, 0xA8, 0x17, 0x28] = .ok (.wdon 2 5 (some 1) [0xA8]) ∧
  decode [0x01, 0x10, 0x00, 0x08, 0x00, 0x02, 0x04, 0x00, 0x01, 0x00, 0x02, 0x22, 0x08]
    = .ok (.whrn 8 2 4 [0x00, 0x01, 0x00, 0x02]) ∧
  decode [0x01, 0x07, 0x41, 0xE2] = .ok (.illegal 0x07)

/-- R124: a frame whose code is one of the eight and whose length is 4 to 7 has no instruction and is dropped; so is a
function 16 frame of 8 bytes, whose BC is read too (R123's second example, R174, step 5 of R204); from 8 bytes on (9 for
function 16), OFF is bytes 2 and 3 and Q bytes 4 and 5, high byte first. -/
def Obligations.HeaderParse : Prop :=
  (∀ (f : List Byte) (c : FunctionCode), FunctionCode.ofByte (f.getD 1 0) = some c → 4 ≤ f.length → f.length < 8 →
    decode f = .error .short) ∧
  (∀ f : List Byte, f.getD 1 0 = 0x10 → 4 ≤ f.length → f.length < 9 → decode f = .error .short) ∧
  (∀ (f : List Byte) (c : FunctionCode), FunctionCode.ofByte (f.getD 1 0) = some c → 8 ≤ f.length →
    (c = .whrn → 9 ≤ f.length) →
    ∃ i, decode f = .ok i ∧ i.fc = f.getD 1 0 ∧
      headerFields i = some (BitVec.ofNat 16 (offOf f), BitVec.ofNat 16 (qOf f))) ∧
  (∀ (s : State) (f : List Byte), s.OfferedValid f → illegalCode (byteAt f 1) = false →
    f.length < 8 ∨ (byteAt f 1 = 0x10 ∧ f.length < 9) →
    ∃ t, step s = .next t ∧ t.outcome = some (.drop .short) ∧ t.rsp = [] ∧ SameBanks s t)

/-- R79: the illegal codes are 0x00, 0x07..0x0E and 0x11..0xFF, 248 of them, every code with bit 7 set among them; the parser
tells them by an exact compare, and each yields exception 0x01 and nothing else. -/
def Obligations.IllegalCodesAreTheOther248 : Prop :=
  (∀ f : List Byte, 4 ≤ f.length →
    (decode f = .ok (.illegal (f.getD 1 0)) ↔ illegalCode (byteAt f 1) = true)) ∧
  ((List.range 256).countP illegalCode = 248) ∧
  (∀ b : Byte, b.getLsbD 7 = true → illegalCode b.toNat = true) ∧
  (∀ (fc : Byte) (s : State), RaisesException (.illegal fc) s .illegalFunction)

/-- R74: the byte count of function 04 is byte 6 as a raw index; in an 8-byte frame that is the low byte of the trailer. -/
def Obligations.ReadInputsByteCountIsRaw : Prop :=
  ∀ f : List Byte, 8 ≤ f.length → f.getD 1 0 = 0x04 →
    ∃ off n, decode f = .ok (.rir off n (f.getD 6 0)) ∧ (f.length = 8 → f.getD 6 0 = f.getD (f.length - 2) 0)

/-- R71: payload bytes beyond those a handler reads change nothing: not the instruction of the fixed formats, and not the
effect of functions 15 and 16. -/
def Obligations.ExtraPayloadIgnored : Prop :=
  (∀ (a c0 c1 : Byte) (extra : List Byte) (i : Instr), i.wellFormed = true →
    (∀ off n bc data, i ≠ .wdon off n bc data) → (∀ off n bc data, i ≠ .whrn off n bc data) →
    decode (a :: i.body ++ extra ++ [c0, c1]) = .ok i) ∧
  (∀ (off n : Word) (bc : Option Byte) (data extra : List Byte) (s : State), packedLen n.toNat ≤ data.length →
    exec (.wdon off n bc (data ++ extra)) s = exec (.wdon off n bc data) s) ∧
  (∀ (off n : Word) (bc : Byte) (data extra : List Byte) (s : State), 2 * n.toNat ≤ data.length →
    exec (.whrn off n bc (data ++ extra)) s = exec (.whrn off n bc data) s)

/-- The row word of every function code decodes to an instruction of that code: all 8 bits of the code select (R78). How a
table row becomes a frame is the model's own reading (log entry 19). -/
def Obligations.TableWordsDecode : Prop :=
  ∀ b : Byte, ∃ i, decodeTableWord 8 b.toNat = some i ∧ i.fc = b ∧ i.wellFormed = true

/-! ### Packing (42_read_functions.md rule R140, 43_write_functions.md rule R170) -/

/-- R140: PACK of off+1 .. off+n gives ceil(n/8) bytes, the lowest index first and at bit 7, the last byte padded with 0 bits;
UNPACK gives the elements back; and the rule's worked example. -/
def Obligations.PackLayout : Prop :=
  (∀ (c : Nat) (bank : Vector Bool c) (off n : Nat), off + n ≤ c →
    ∃ bits, bankRead bank off n = some bits ∧ bits.length = n ∧ PacksBank bank off n (packBits bits) ∧
      unpackBits n (packBits bits) = some bits) ∧
  packBits [true, true, false, false, true, true, false, true, false, true] = [0xCD, 0x40]

/-- R170: the data starts at frame index 7 and ends with the payload; UNPACK(n) reads element j as bit 7 - (j mod 8) of data
byte j div 8; it needs ceil(n/8) data bytes, or function 15 is dropped, and reads no later byte, no other bit of them, and
not the byte count. -/
def Obligations.UnpackReadsExactlyItsBits : Prop :=
  (∀ (n : Nat) (data : List Byte), packedLen n ≤ data.length →
    ∃ bits, unpackBits n data = some bits ∧ bits.length = n ∧
      ∀ j, j < n → bits[j]? = (data[j / 8]?).map (fun b => b.getLsbD (7 - j % 8))) ∧
  (∀ (n : Nat) (data : List Byte), data.length < packedLen n → unpackBits n data = none) ∧
  (∀ (off n : Word) (bc : Option Byte) (data : List Byte) (s : State), off.toNat + n.toNat ≤ 20 →
    data.length < packedLen n.toNat → exec (.wdon off n bc data) s = .next (s.dropped .short)) ∧
  (∀ f : List Byte, 8 ≤ f.length → f.getD 1 0 = 0x0F →
    ∃ off n bc data, decode f = .ok (.wdon off n bc data) ∧ data = (f.take (f.length - 2)).drop 7) ∧
  (∀ (n : Nat) (d1 d2 : List Byte), (∀ j, j < n → packedBit d1 j = packedBit d2 j) → unpackBits n d1 = unpackBits n d2) ∧
  (∀ (off n : Word) (bc1 bc2 : Option Byte) (data : List Byte) (s : State),
    exec (.wdon off n bc1 data) s = exec (.wdon off n bc2 data) s)

/-! ### The functions: results, frames and completion -/

/-- Function 01 (R141): where OFF + N <= 20, the response is the coils off+1 .. off+N packed, and nothing else changes. -/
def Obligations.RdoReadsCoils : Prop :=
  ∀ (off n : Word) (s : State), off.toNat + n.toNat ≤ 20 →
    ∃ t data, exec (.rdo off n) s = .next t ∧ PacksBank s.DO off.toNat n.toNat data ∧
      Answers t .normal (readBody s 0x01 data) ∧ OnlyResponse s t

/-- Function 02 with its range check (R142): where OFF + N <= 20, the response is the discrete inputs packed. -/
def Obligations.RdiReadsInputs : Prop :=
  ∀ (off n : Word) (s : State), s.cfg.fn02RangeCheck = true → off.toNat + n.toNat ≤ 20 →
    ∃ t data, exec (.rdi off n) s = .next t ∧ PacksBank s.DI off.toNat n.toNat data ∧
      Answers t .normal (readBody s 0x02 data) ∧ OnlyResponse s t

/-- Function 02 without its range check (R143), where the BC byte and the buffer can hold the response: elements with index at
most 20 are read, and each other bit is a free draw of its own. R143 says only that the draws are fresh: which draw the bit of
element j is (number s.draws + j, log entry 9) and that the count then passes them all (log entry 10) is the model's choice. -/
def Obligations.RdiGapDraws : Prop :=
  ∀ (off n : Word) (s : State), s.cfg.fn02RangeCheck = false → packedLen n.toNat ≤ 255 →
    5 + packedLen n.toNat ≤ s.cfg.maxFrameLen →
    ∃ t data, exec (.rdi off n) s = .next t ∧ data.length = packedLen n.toNat ∧
      (∀ j, j < 8 * data.length →
        packedBit data j =
          some (if j < n.toNat then (bankGet s.DI (off.toNat + 1 + j)).getD (Config.freeBit (s.draws + j)) else false)) ∧
      Answers t .normal (readBody s 0x02 data) ∧ OnlyResponse s t ∧ s.draws + n.toNat ≤ t.draws

/-- R143: without its range check, function 02 is refused exactly where the BC byte or the buffer cannot hold the response. -/
def Obligations.RdiGapOversizeRefused : Prop :=
  ∀ (off n : Word) (s : State), s.cfg.fn02RangeCheck = false →
    (exec (.rdi off n) s = .refused .oversizeDiscreteRead ↔
      255 < packedLen n.toNat ∨ s.cfg.maxFrameLen < 5 + packedLen n.toNat)

/-- Function 03 (R144, R146): where OFF + N <= 10, the response is the holding registers, each high byte first. -/
def Obligations.RhrReadsHoldings : Prop :=
  ∀ (off n : Word) (s : State), off.toNat + n.toNat ≤ 10 →
    ∃ t data, exec (.rhr off n) s = .next t ∧ ServesBank s.HR off.toNat n.toNat data ∧
      Answers t .normal (readBody s 0x03 data) ∧ OnlyResponse s t

/-- Function 04 (R145, R146): where 1 <= N, BC = 2N and OFF + N <= 20, the response is the input registers. -/
def Obligations.RirReadsInputRegisters : Prop :=
  ∀ (off n : Word) (bc : Byte) (s : State), 1 ≤ n.toNat → bc.toNat = 2 * n.toNat → off.toNat + n.toNat ≤ 20 →
    ∃ t data, exec (.rir off n bc) s = .next t ∧ ServesBank s.IR off.toNat n.toNat data ∧
      Answers t .normal (readBody s 0x04 data) ∧ OnlyResponse s t

/-- Function 05 (R171): with a legal value and OFF <= 19, DO[off+1] becomes 1 for 0xFF00 and 0 for 0x0000, no other coil
changes, and the response echoes the header. -/
def Obligations.WdoWritesOneCoil : Prop :=
  ∀ (off v : Word) (s : State), v = 0xFF00 ∨ v = 0x0000 → off.toNat + 1 ≤ 20 →
    ∃ t, exec (.wdo off v) s = .next t ∧ Answers t .normal (echoBody s 0x05 off v) ∧ OnlyResponseAndDO s t ∧
      ∀ k, bankGet t.DO k = if k = off.toNat + 1 then some (decide (v = 0xFF00)) else bankGet s.DO k

/-- Function 06 (R172): with OFF <= 9, HR[off+1] becomes the value as it is, and no other register changes. -/
def Obligations.WhrWritesOneRegister : Prop :=
  ∀ (off v : Word) (s : State), off.toNat + 1 ≤ 10 →
    ∃ t, exec (.whr off v) s = .next t ∧ Answers t .normal (echoBody s 0x06 off v) ∧ OnlyResponseAndHR s t ∧
      ∀ k, bankGet t.HR k = if k = off.toNat + 1 then some v else bankGet s.HR k

/-- Function 15 (R173): with OFF + N <= 20 and ceil(N/8) data bytes, coil off+1+j becomes element j of the packed data, no other
coil changes, and any byte count does. -/
def Obligations.WdonWritesCoils : Prop :=
  ∀ (off n : Word) (bc : Option Byte) (data : List Byte) (s : State),
    off.toNat + n.toNat ≤ 20 → packedLen n.toNat ≤ data.length →
    ∃ t, exec (.wdon off n bc data) s = .next t ∧ Answers t .normal (echoBody s 0x0F off n) ∧ OnlyResponseAndDO s t ∧
      ∀ k, bankGet t.DO k =
        if off.toNat + 1 ≤ k ∧ k ≤ off.toNat + n.toNat then packedBit data (k - (off.toNat + 1)) else bankGet s.DO k

/-- Function 16 (R174): with 1 <= N, BC = 2N, OFF + N <= 10 and 2N data bytes, register off+1+k becomes data word k, high byte
first, and no other register changes. -/
def Obligations.WhrnWritesRegisters : Prop :=
  ∀ (off n : Word) (bc : Byte) (data : List Byte) (s : State),
    1 ≤ n.toNat → bc.toNat = 2 * n.toNat → off.toNat + n.toNat ≤ 10 → 2 * n.toNat ≤ data.length →
    ∃ t, exec (.whrn off n bc data) s = .next t ∧ Answers t .normal (echoBody s 0x10 off n) ∧ OnlyResponseAndHR s t ∧
      ∀ k, bankGet t.HR k =
        if off.toNat + 1 ≤ k ∧ k ≤ off.toNat + n.toNat then
          (data[2 * (k - (off.toNat + 1))]?).bind
            (fun h => (data[2 * (k - (off.toNat + 1)) + 1]?).map (fun l => BitVec.ofNat 16 (h.toNat * 256 + l.toNat)))
        else bankGet s.HR k

/-- R81, R122: an illegal code raises exception 0x01 on every state, changes nothing else, and marks byte 1 with bit 7; a code
that has bit 7 is echoed unchanged. -/
def Obligations.IllegalRaisesIllegalFunction : Prop :=
  ∀ (fc : Byte) (s : State),
    ∃ t, exec (.illegal fc) s = .next t ∧
      Answers t (.exception .illegalFunction) [s.slaveAddr, fc ||| 0x80, 0x01] ∧ OnlyResponse s t ∧
      (fc.getLsbD 7 = true → t.rsp.getD 1 0 = fc)

/-- R200, R202 (column 0x02), R77: a range that reaches past its bank, in sums that do not wrap, raises exception 0x02 and
changes nothing else, once the function's value or count check has passed. -/
def Obligations.RangeErrorsRaiseDataAddress : Prop :=
  ∀ (off n v : Word) (bc : Byte) (obc : Option Byte) (data : List Byte) (s : State),
    (20 < off.toNat + n.toNat → RaisesException (.rdo off n) s .illegalDataAddress) ∧
    (s.cfg.fn02RangeCheck = true → 20 < off.toNat + n.toNat → RaisesException (.rdi off n) s .illegalDataAddress) ∧
    (10 < off.toNat + n.toNat → RaisesException (.rhr off n) s .illegalDataAddress) ∧
    (1 ≤ n.toNat → n.toNat ≤ 0x7B → bc.toNat = 2 * n.toNat → 20 < off.toNat + n.toNat →
      RaisesException (.rir off n bc) s .illegalDataAddress) ∧
    (v = 0xFF00 ∨ v = 0x0000 → 20 < off.toNat + 1 → RaisesException (.wdo off v) s .illegalDataAddress) ∧
    (10 < off.toNat + 1 → RaisesException (.whr off v) s .illegalDataAddress) ∧
    (20 < off.toNat + n.toNat → RaisesException (.wdon off n obc data) s .illegalDataAddress) ∧
    (1 ≤ n.toNat → n.toNat ≤ 0x7B → bc.toNat = 2 * n.toNat → 10 < off.toNat + n.toNat →
      RaisesException (.whrn off n bc data) s .illegalDataAddress)

/-- R200, R202 (column 0x03): a coil value that is neither 0xFF00 nor 0x0000, a count outside 1..0x7B or a byte count that is
not 2N raises exception 0x03 whatever the offset, and changes nothing else. -/
def Obligations.ValueErrorsRaiseDataValue : Prop :=
  ∀ (off n v : Word) (bc : Byte) (data : List Byte) (s : State),
    (v ≠ 0xFF00 → v ≠ 0x0000 → RaisesException (.wdo off v) s .illegalDataValue) ∧
    (n.toNat = 0 ∨ 0x7B < n.toNat ∨ bc.toNat ≠ 2 * n.toNat →
      RaisesException (.rir off n bc) s .illegalDataValue ∧ RaisesException (.whrn off n bc data) s .illegalDataValue)

/-- R123, R170, R174: functions 15 and 16 that pass their checks are dropped, with no bank written, exactly when the data
field is too short. -/
def Obligations.ShortDataIsDropped : Prop :=
  (∀ (off n : Word) (bc : Option Byte) (data : List Byte) (s : State), off.toNat + n.toNat ≤ 20 →
    (exec (.wdon off n bc data) s = .next (s.dropped .short) ↔ data.length < packedLen n.toNat)) ∧
  (∀ (off n : Word) (bc : Byte) (data : List Byte) (s : State), 1 ≤ n.toNat → n.toNat ≤ 0x7B → bc.toNat = 2 * n.toNat →
    off.toNat + n.toNat ≤ 10 →
    (exec (.whrn off n bc data) s = .next (s.dropped .short) ↔ data.length < 2 * n.toNat))

/-! ### What every handler keeps -/

/-- R125: a handler that goes on ends in exactly one of a normal response of at least three bytes, the exception response of
its own code, or a drop for a short frame. -/
def Obligations.HandlerEndsOneWay : Prop :=
  ∀ (i : Instr) (s t : State), exec i s = .next t →
    (∃ body, 3 ≤ body.length ∧ body.getD 0 0 = s.slaveAddr ∧ body.getD 1 0 = i.fc ∧ Answers t .normal body) ∨
    (∃ c : ExceptionCode, Answers t (.exception c) (exceptionBody s i.fc c.byte)) ∨
    t = s.dropped .short

/-- R31: the buffer a handler leaves, its body and the two reserved slots, holds at most MAX_FRAME_LEN bytes on an instance
whose parameters obey R11, and no step of any event takes the buffer beyond that bound. That parameters which break R11 never
construct an instance is the model's choice (log entry 13). -/
def Obligations.ResponseFitsBuffer : Prop :=
  (∀ (i : Instr) (s t : State), s.cfg.ok = true → exec i s = .next t → t.rsp.length ≤ s.cfg.maxFrameLen) ∧
  (∀ s t : State, s.cfg.ok = true → s.rsp.length ≤ s.cfg.maxFrameLen → step s = .next t →
    t.cfg.ok = true ∧ t.rsp.length ≤ t.cfg.maxFrameLen)

/-- R175: a handler that ends in an exception or a drop leaves every bank exactly as it was. -/
def Obligations.WritesAreAllOrNothing : Prop :=
  ∀ (i : Instr) (s t : State), exec i s = .next t → t.outcome ≠ some .normal →
    t.DO = s.DO ∧ t.DI = s.DI ∧ t.HR = s.HR ∧ t.IR = s.IR

/-- What functions 05 and 15 wrote is what function 01 reads back from any state with those coils, bit for bit, for every
count (R140, R170, R171, R173; 95_test_vectors.md E4 and E5). -/
def Obligations.CoilsReadBack : Prop :=
  (∀ (off n : Word) (bc : Option Byte) (data : List Byte) (s t s2 u : State),
    exec (.wdon off n bc data) s = .next t → t.outcome = some .normal → s2.DO = t.DO →
    exec (.rdo off n) s2 = .next u →
    u.outcome = some .normal ∧ ∀ j, j < n.toNat → packedBit (u.rsp.drop 3) j = packedBit data j) ∧
  (∀ (off v : Word) (s t s2 u : State),
    exec (.wdo off v) s = .next t → t.outcome = some .normal → s2.DO = t.DO →
    exec (.rdo off 1) s2 = .next u →
    u.outcome = some .normal ∧ packedBit (u.rsp.drop 3) 0 = some (decide (v = 0xFF00)))

/-- What functions 06 and 16 wrote is what function 03 reads back from any state with those registers (R144, R172, R174;
95_test_vectors.md E3). -/
def Obligations.RegistersReadBack : Prop :=
  (∀ (off n : Word) (bc : Byte) (data : List Byte) (s t s2 u : State),
    exec (.whrn off n bc data) s = .next t → t.outcome = some .normal → s2.HR = t.HR →
    exec (.rhr off n) s2 = .next u →
    u.outcome = some .normal ∧ (u.rsp.drop 3).take (2 * n.toNat) = data.take (2 * n.toNat)) ∧
  (∀ (off v : Word) (s t s2 u : State),
    exec (.whr off v) s = .next t → t.outcome = some .normal → s2.HR = t.HR →
    exec (.rhr off 1) s2 = .next u →
    u.outcome = some .normal ∧ (u.rsp.drop 3).take 2 = [hiByte v, loByte v])

/-! ### The transaction (41_dispatch.md, 60_exceptions.md) -/

/-- R120, R121: when the next event is a request that the validator passes and the parser reads as `i`, the step is the meaning
of `i` on the state in HANDLE, followed by sealing, counting and completion. -/
def Obligations.StepRunsDecodedInstruction : Prop :=
  ∀ (s : State) (f : List Byte) (rest : List HostEvent) (i : Instr),
    s.host = .request f :: rest → s.phase = .idle → f.length ≤ s.cfg.maxFrameLen →
    validate s.slaveAddr f = none → decode f = .ok i →
    step s = finishResult (exec i (s.atHandler f rest))

/-- A well-formed instruction encoded for this slave and offered to it is the instruction the step runs. -/
def Obligations.EncodedRequestRuns : Prop :=
  ∀ (s : State) (rest : List HostEvent) (i : Instr), i.wellFormed = true →
    s.host = .request (encode s.slaveAddr i) :: rest → s.phase = .idle →
    (encode s.slaveAddr i).length ≤ s.cfg.maxFrameLen →
    step s = finishResult (exec i (s.atHandler (encode s.slaveAddr i) rest))

/-- R204, R205, with the table of R202: the outcome of a request is the first failure that applies, in the rule's order, or
Normal; every offered request gets one, on an instance with FN02_RANGE_CHECK or without it (where function 02 alone has no
step 7, R143), but for the oversize function 02 read that R143 gives no meaning, which is refused; and the drops cannot be
told apart by the response, which is empty. That an 8-byte function 15 request with N = 0 is answered normally is the model's
inference (log entry 17). -/
def Obligations.OutcomeFollowsPriority : Prop :=
  ∀ (s : State) (f : List Byte), s.Offered f →
    (s.OversizeGapRead f → step s = .refused .oversizeDiscreteRead) ∧
    (¬ s.OversizeGapRead f →
      ∃ t, step s = .next t ∧ t.outcome = some (s.expectedOutcome f) ∧ (∀ r, s.expectedOutcome f = .drop r → t.rsp = []))

/-- R207: no request makes the block stick or fault. Every offered frame is answered, with RSP_VALID up after COUNT (R129),
unless R143 gives an oversize function 02 read no meaning. That RSP_VALID goes up after an empty response too (log entry 26)
and that the phase is COUNT while the response waits (log entry 27) are the model's inferences from R129 and R30. -/
def Obligations.EveryRequestCompletes : Prop :=
  ∀ (s : State) (f : List Byte), s.Offered f →
    (∃ t, step s = .next t ∧ t.phase = .count ∧ t.rspValid = true ∧ t.host = s.host.tail) ∨
    (s.cfg.fn02RangeCheck = false ∧ step s = .refused .oversizeDiscreteRead)

/-- R200, R207: no step faults, in any state, and no meaning does on any operands. The model's one fault is its own choice
(log entry 24): an access that asks a bank for an absent element, which each range check precludes. Two accesses answer an
absent element otherwise, and no fault is claimed of them: function 02 without its range check draws a bit (R143), and the
counter update leaves alone a slot outside the bank, which only parameters that break R12 name. -/
def Obligations.NothingFaults : Prop :=
  (∀ s : State, NeverFaults (step s)) ∧ (∀ (i : Instr) (s : State), NeverFaults (exec i s))

/-- R112: a request of fewer than 4 bytes is dropped as too short, whatever its bytes. -/
def Obligations.TooShortIsDropped : Prop :=
  ∀ (s : State) (f : List Byte), s.Offered f → f.length < 4 →
    ∃ t, step s = .next t ∧ t.outcome = some (.drop .tooShort) ∧ t.rsp = [] ∧ SameBanks s t

/-- R108: a frame that fails validation ends with an empty response and no bank written by a handler; the counters still move. -/
def Obligations.ValidationFailureIsSilent : Prop :=
  ∀ (s : State) (f : List Byte) (r : DropReason), s.Offered f → s.cfg.ok = true → validate s.slaveAddr f = some r →
    ∃ t, step s = .next t ∧ t.rsp = [] ∧ t.outcome = some (.drop r) ∧ SameBanks s t ∧ SameConfig s t ∧
      CountersMoved s t f.length 0

/-- R122: a valid frame with an illegal code is answered with the sealed exception 0x01, whatever follows the code; only the
counters change. -/
def Obligations.IllegalFunctionTransaction : Prop :=
  ∀ (s : State) (f : List Byte), s.OfferedValid f → s.cfg.ok = true → illegalCode (byteAt f 1) = true →
    ∃ t, step s = .next t ∧ t.outcome = some (.exception .illegalFunction) ∧
      t.rsp = sealFrame [f.getD 0 0, f.getD 1 0 ||| 0x80, 0x01] ∧ SameBanks s t ∧ CountersMoved s t f.length 5

/-- R203, R81: every exception response is five bytes, address, code with bit 7 set, exception code, checksum low byte first, and a
code that has bit 7 already is unchanged; every normal response has bit 7 of byte 1 clear. -/
def Obligations.ExceptionResponseShape : Prop :=
  ∀ (s t : State) (f : List Byte), s.Offered f → step s = .next t →
    (∀ c : ExceptionCode, t.outcome = some (.exception c) →
      t.rsp = sealFrame [s.slaveAddr, f.getD 1 0 ||| 0x80, c.byte] ∧ t.rsp.length = 5 ∧ marksException t.rsp = true ∧
      ((f.getD 1 0).getLsbD 7 = true → t.rsp.getD 1 0 = f.getD 1 0)) ∧
    (t.outcome = some .normal → marksException t.rsp = false)

/-- R206: exceptions are precise. The state after is the state before but for the response and the counters; no bank, no
configuration and no saved state changes. -/
def Obligations.ExceptionsArePrecise : Prop :=
  ∀ (s t : State) (f : List Byte) (c : ExceptionCode), s.Offered f → s.cfg.ok = true → step s = .next t →
    t.outcome = some (.exception c) →
    SameBanks s t ∧ SameConfig s t ∧ CountersMoved s t f.length 5 ∧
      t.rsp = sealFrame [s.slaveAddr, f.getD 1 0 ||| 0x80, c.byte]

/-- R128: the lengths of responses, by outcome and function; none is longer than 45 while function 02 has its range check. -/
def Obligations.ResponseLengths : Prop :=
  ∀ (s t : State) (f : List Byte), s.Offered f → step s = .next t →
    (s.cfg.fn02RangeCheck = true → t.rsp.length ≤ 45) ∧
    (∀ r, t.outcome = some (.drop r) → t.rsp.length = 0) ∧
    (∀ c, t.outcome = some (.exception c) → t.rsp.length = 5) ∧
    (t.outcome = some .normal →
      (byteAt f 1 ∈ [0x01, 0x02, 0x03, 0x04] → t.rsp.length = 5 + byteAt t.rsp 2) ∧
      (byteAt f 1 = 0x01 → 5 ≤ t.rsp.length ∧ t.rsp.length ≤ 8) ∧
      (byteAt f 1 = 0x02 → s.cfg.fn02RangeCheck = true → 5 ≤ t.rsp.length ∧ t.rsp.length ≤ 8) ∧
      (byteAt f 1 = 0x03 → 5 ≤ t.rsp.length ∧ t.rsp.length ≤ 25) ∧
      (byteAt f 1 = 0x04 → 7 ≤ t.rsp.length ∧ t.rsp.length ≤ 45) ∧
      (byteAt f 1 ∈ [0x05, 0x06, 0x0F, 0x10] → t.rsp.length = 8))

/-- R75, D18: the normal response of a write function is the first six bytes of the request under a fresh checksum, also for a
longer request. -/
def Obligations.EchoCopiesTheHeader : Prop :=
  ∀ (s t : State) (f : List Byte), s.OfferedValid f → step s = .next t → t.outcome = some .normal →
    byteAt f 1 ∈ [0x05, 0x06, 0x0F, 0x10] → t.rsp = sealFrame (f.take 6)

/-- R210: every transaction, whatever its outcome, moves the counters by 1, the request's length and the response's length,
modulo 2^16, and no other input register. -/
def Obligations.EveryTransactionIsCounted : Prop :=
  ∀ (s t : State) (f : List Byte), s.cfg.ok = true → s.Offered f → step s = .next t →
    CountersMoved s t f.length t.rsp.length

/-- R212, R236: a function 04 read serves the input registers as they were before its own transaction was counted, counter
slots among them, and is then counted. -/
def Obligations.CounterSelfRead : Prop :=
  ∀ (s t : State) (f : List Byte), s.OfferedValid f → s.cfg.ok = true → byteAt f 1 = 0x04 → step s = .next t →
    t.outcome = some .normal →
    ServesBank s.IR (offOf f) (qOf f) ((t.rsp.drop 3).take (2 * qOf f)) ∧ CountersMoved s t f.length (5 + 2 * qOf f)

/-- R34: the response and the banks after a request depend only on the request, the configuration and the four banks. The one
request that draws a bit for its response, function 02 without its range check on a range beyond its bank (R143), depends on
the model's count of draws besides (log entries 9 and 10). -/
def Obligations.TransactionDependsOnlyOnBanks : Prop :=
  ∀ (s1 s2 t1 t2 : State) (f : List Byte), s1.Offered f → s2.Offered f →
    s1.DO = s2.DO → s1.DI = s2.DI → s1.HR = s2.HR → s1.IR = s2.IR → s1.slaveAddr = s2.slaveAddr → s1.cfg = s2.cfg →
    (s1.cfg.fn02RangeCheck = true ∨ byteAt f 1 ≠ 0x02 ∨ offOf f + qOf f ≤ 20 ∨ s1.draws = s2.draws) →
    step s1 = .next t1 → step s2 = .next t2 →
    t1.rsp = t2.rsp ∧ t1.outcome = t2.outcome ∧ t1.DO = t2.DO ∧ t1.DI = t2.DI ∧ t1.HR = t2.HR ∧ t1.IR = t2.IR

/-! ### The whole machine -/

/-- What holds of the block between two host events still holds after any step, of any event, from any such state: R31's bound
on the response buffer, R110, R128, R201, and three clauses that are the model's own. That the block waits in COUNT with
RSP_VALID up, after a drop too, is inferred (log entries 26 and 27); that the parameters stay legal rests on the choice to
refuse a construction that breaks R11 or R12 (log entry 13). -/
def Obligations.StepKeepsInvariant : Prop :=
  ∀ s t : State, s.Inv → step s = .next t → t.Inv

/-- The invariant holds after reset, and after every construction with legal parameters. RSP_VALID down after reset, on which
its clauses about a response on offer stand, is the model's choice (log entry 23; R35 does not list it); so are the default
parameters of State.reset (log entry 5) and the empty response buffer (log entry 6). -/
def Obligations.ResetHasInvariant : Prop :=
  State.reset.Inv ∧ ∀ (addr : Byte) (p : Config.Params), p.ok = true → (State.construct addr p).Inv

/-- R22, R24, R27, R28: no step but a reset writes the discrete inputs, an input register outside the counter slots, the slave
address or the parameters. -/
def Obligations.InputsAndConfigurationAreReadOnly : Prop :=
  ∀ s t : State, step s = .next t → (∀ a p, s.host.head? ≠ some (.reset a p)) →
    t.DI = s.DI ∧ SameConfig s t ∧ ∀ k, s.cfg.isCounterSlot k = false → bankGet t.IR k = bankGet s.IR k

/-- R26: a step that is no reset changes a coil only as a normal function 05 or 15, and a holding register only as a normal
function 06 or 16. -/
def Obligations.OnlyWriteFunctionsChangeOutputs : Prop :=
  ∀ (s t : State) (e : HostEvent), step s = .next t → s.host.head? = some e → (∀ a p, e ≠ .reset a p) →
    (t.DO ≠ s.DO → ∃ f, e = .request f ∧ t.outcome = some .normal ∧ byteAt f 1 ∈ [0x05, 0x0F]) ∧
    (t.HR ≠ s.HR → ∃ f, e = .request f ∧ t.outcome = some .normal ∧ byteAt f 1 ∈ [0x06, 0x10])

/-- R217: with no host event the block keeps all its state. That a step without an event exists is the model's choice (log
entry 15). -/
def Obligations.NoEventKeepsState : Prop :=
  ∀ s : State, s.host = [] → step s = .next s

/-- R235: a step that breaks a host duty is refused: (a) a request while the block is not IDLE, (c) a request longer than
MAX_FRAME_LEN, (d) a reset while not IDLE. Duty (b) has no clause of its own: that a breach of serialisation shows as (a), a
request while the block is not IDLE, is the model's inference (log entry 12). -/
def Obligations.HostDutiesAreRefused : Prop :=
  ∀ (s : State) (rest : List HostEvent) (f : List Byte) (a : Byte) (p : Config.Params),
    (s.host = .request f :: rest → s.phase ≠ .idle → step s = .refused .requestWhileBusy) ∧
    (s.host = .request f :: rest → s.phase = .idle → s.cfg.maxFrameLen < f.length →
      step s = .refused .requestTooLong) ∧
    (s.host = .reset a p :: rest → s.phase ≠ .idle → step s = .refused .resetWhileBusy)

/-- R129: with a response on offer, RSP_TAKEN takes RSP_VALID down and returns the block to IDLE, ready for a request, with every
bank as it was; whatever the response buffer then holds fits it (R31, log entry 7). -/
def Obligations.TakenReturnsToIdle : Prop :=
  ∀ (s : State) (rest : List HostEvent), s.host = .taken :: rest → s.rspValid = true →
    ∃ t, step s = .next t ∧ t.reqReady = true ∧ t.rspValid = false ∧ t.host = rest ∧ SameBanks s t ∧ t.IR = s.IR ∧
      SameConfig s t ∧ t.rsp.length ≤ t.cfg.maxFrameLen

/-- R230: reset establishes the phase, the address, DO and HR from their parameters, IR from the seed with the counter slots at
0, and then DI from the parity of IR; REQ_READY is up after it. -/
def Obligations.ResetEstablishes : Prop :=
  ∀ (s : State) (rest : List HostEvent) (a : Byte) (p : Config.Params),
    s.host = .reset a p :: rest → s.phase = .idle → p.ok = true →
    ∃ t, step s = .next t ∧ t.phase = .idle ∧ t.reqReady = true ∧ t.slaveAddr = a ∧ t.cfg = p ∧
      (∀ k, bankGet t.DO k = bankGet p.doReset k) ∧ (∀ k, bankGet t.HR k = bankGet p.hrReset k) ∧
      (∀ k, 1 ≤ k → k ≤ 20 →
        bankGet t.IR k = (if k = p.idxReqCount ∨ k = p.idxRxBytes ∨ k = p.idxTxBytes then some 0 else bankGet p.irSeed k) ∧
        bankGet t.DI k = (bankGet t.IR k).map (parity p.diParity))

/-- R33: nothing of the instance before a reset is left after it, but for the model's own fields: the host's schedule and the
count of draws (log entry 14). -/
def Obligations.ResetForgets : Prop :=
  ∀ (s1 s2 t1 t2 : State) (rest : List HostEvent) (a : Byte) (p : Config.Params),
    s1.host = .reset a p :: rest → s2.host = .reset a p :: rest → s1.draws = s2.draws →
    step s1 = .next t1 → step s2 = .next t2 → t1 = t2

/-- R231: LSB is bit 0, XOR_ALL is 1 for an odd number of 1 bits, and a word of 0 gives 0 under both. -/
def Obligations.ParityMeaning : Prop :=
  (∀ v : Word, parity .lsb v = decide (v.toNat % 2 = 1)) ∧
  (∀ v : Word, parity .xorAll v = decide ((List.range 16).countP (fun i => v.getLsbD i) % 2 = 1)) ∧
  (∀ d : Config.DiParity, parity d 0 = false)

/-- The model's choice for State.reset is an instance with the default parameters (log entry 5) and with the opaque
Config.irSeed for IR_SEED (log entry 4). At these R35 gives: the block is IDLE, DO and HR are zero, the counters are zero, the
other input registers are the seed, and each discrete input is bit 0 of its input register. -/
def Obligations.ResetStateHoldsResetValues : Prop :=
  State.reset.phase = .idle ∧
  (∀ k, 1 ≤ k → k ≤ 20 → bankGet State.reset.DO k = some false) ∧
  (∀ k, 1 ≤ k → k ≤ 10 → bankGet State.reset.HR k = some 0) ∧
  (∀ k, 18 ≤ k → k ≤ 20 → bankGet State.reset.IR k = some 0) ∧
  (∀ k, 1 ≤ k → k ≤ 17 → bankGet State.reset.IR k = some (Config.irSeed k)) ∧
  (∀ k, 1 ≤ k → k ≤ 20 → bankGet State.reset.DI k = (bankGet State.reset.IR k).map (fun v => v.getLsbD 0))
end

