-- ==== Sys2Proof/Laws/Banks.lean ====
section
/-!
SUPPORT. What the bank accesses do, said once for each: a read after a write, a range written, a range read, a counter added to.
-/

namespace Sys2Proof.Machine

/-! ### One element -/

theorem bankGet_isSome {α : Type} {n : Nat} (b : Vector α n) (k : Nat) :
    (bankGet b k).isSome = decide (1 ≤ k ∧ k ≤ n) := by
  unfold bankGet; split <;> simp_all

theorem bankGet_eq_some_of_mem {α : Type} {n : Nat} (b : Vector α n) {k : Nat} (h1 : 1 ≤ k) (hn : k ≤ n) :
    ∃ v, bankGet b k = some v := by
  simp [bankGet, h1, hn]

theorem bankGet_eq_none {α : Type} {n : Nat} (b : Vector α n) {k : Nat} (h : ¬ (1 ≤ k ∧ k ≤ n)) :
    bankGet b k = none := by
  simp only [bankGet, h, dite_false]

theorem bankGet_bankOf {α : Type} (n : Nat) (f : Nat → α) (k : Nat) :
    bankGet (bankOf n f) k = if 1 ≤ k ∧ k ≤ n then some (f k) else none := by
  unfold bankGet
  split
  case isTrue h =>
    obtain ⟨h1, hn⟩ := h
    simp [bankOf, Nat.sub_add_cancel h1]
  case isFalse h => rfl

/-- Writing one existing element: it then reads as written, every other element as before. -/
theorem bankPut_spec {α : Type} {n : Nat} (b : Vector α n) {k : Nat} (v : α) (h1 : 1 ≤ k) (hn : k ≤ n) :
    ∃ b', bankPut b k v = some b' ∧ ∀ m, bankGet b' m = if m = k then some v else bankGet b m := by
  refine ⟨b.set (k - 1) v (by omega), by simp [bankPut, h1, hn], fun m => ?_⟩
  by_cases hm : 1 ≤ m ∧ m ≤ n
  · by_cases hk : m = k
    · subst hk; simp [bankGet, h1, hn]
    · simp [bankGet, hm, hk, Vector.getElem_set]
      omega
  · have hk : m ≠ k := by omega
    simp [bankGet_eq_none _ hm, hk]

/-- A bank is determined by its elements. -/
theorem bank_ext {α : Type} {n : Nat} {a b : Vector α n} (h : ∀ k, 1 ≤ k → k ≤ n → bankGet a k = bankGet b k) : a = b := by
  apply Vector.ext
  intro i hi
  have h2 := h (i + 1) (by omega) (by omega)
  simpa [bankGet, Nat.succ_le_of_lt hi] using h2

/-! ### Ranges -/

/-- Writing a range that exists: element k + j reads as the j-th value, every other element as before. -/
theorem bankWrite_spec {α : Type} {n : Nat} (vs : List α) :
    ∀ (b : Vector α n) (k : Nat), 1 ≤ k → k + vs.length ≤ n + 1 →
      ∃ b', bankWrite b k vs = some b' ∧
        ∀ m, bankGet b' m = if k ≤ m ∧ m < k + vs.length then vs[m - k]? else bankGet b m := by
  induction vs with
  | nil =>
    intro b k _ _
    refine ⟨b, rfl, fun m => ?_⟩
    rw [if_neg (by simp)]
  | cons v vs ih =>
    intro b k h1 hk
    simp only [List.length_cons] at hk
    obtain ⟨b1, hb1, hget1⟩ := bankPut_spec b v h1 (by omega)
    obtain ⟨b2, hb2, hget2⟩ := ih b1 (k + 1) (by omega) (by omega)
    refine ⟨b2, by simp [bankWrite, hb1, hb2], fun m => ?_⟩
    rw [hget2, hget1]
    simp only [List.length_cons]
    by_cases hm : m = k
    · subst hm
      simp
    · by_cases hr : k + 1 ≤ m ∧ m < k + 1 + vs.length
      · have h4 : k ≤ m ∧ m < k + (vs.length + 1) := by omega
        obtain ⟨d, rfl⟩ : ∃ d, m = k + 1 + d := ⟨m - (k + 1), by omega⟩
        rw [if_pos hr, if_pos h4, show k + 1 + d - (k + 1) = d by omega, show k + 1 + d - k = d + 1 by omega]
        simp
      · have h4 : ¬ (k ≤ m ∧ m < k + (vs.length + 1)) := by omega
        rw [if_neg hr, if_neg hm, if_neg h4]

/-- Reads that all have an answer give the list of answers, in order. -/
theorem readAll_eq_some {α : Type} {g : Nat → α} :
    ∀ (m : Nat) {f : Nat → Option α}, (∀ j, j < m → f j = some (g j)) →
      readAll m f = some ((List.range m).map g) := by
  intro m
  induction m generalizing g with
  | zero => intro f _; rfl
  | succ m ih =>
    intro f h
    have h0 := h 0 (by omega)
    have ht := ih (g := fun j => g (j + 1)) (f := fun j => f (j + 1)) (fun j hj => h (j + 1) (by omega))
    simp only [readAll, h0, ht, Option.map_some, List.range_succ_eq_map, List.map_cons, List.map_map]
    rfl

/-- If one of the reads has no answer, none of them counts. -/
theorem readAll_eq_none {α : Type} :
    ∀ (m : Nat) {f : Nat → Option α} {j : Nat}, j < m → f j = none → readAll m f = none := by
  intro m
  induction m with
  | zero => intro f j hj; omega
  | succ m ih =>
    intro f j hj hf
    cases h0 : f 0 with
    | none => simp [readAll, h0]
    | some a =>
      cases j with
      | zero => simp [h0] at hf
      | succ j => simp [readAll, h0, ih (f := fun j => f (j + 1)) (by omega) hf]

/-- Reads depend only on the answers within their range. -/
theorem readAll_congr {α : Type} :
    ∀ (m : Nat) {f g : Nat → Option α}, (∀ j, j < m → f j = g j) → readAll m f = readAll m g := by
  intro m
  induction m with
  | zero => intros; rfl
  | succ m ih =>
    intro f g h
    have h0 := h 0 (by omega)
    have ht := ih (f := fun j => f (j + 1)) (g := fun j => g (j + 1)) (fun j hj => h (j + 1) (by omega))
    simp only [readAll, h0, ht]

/-- What a list of reads that was answered holds. -/
theorem readAll_some_spec {α : Type} :
    ∀ (m : Nat) {f : Nat → Option α} {l : List α}, readAll m f = some l →
      l.length = m ∧ ∀ j, j < m → l[j]? = f j := by
  intro m
  induction m with
  | zero =>
    intro f l h
    simp only [readAll, Option.some.injEq] at h
    subst h
    exact ⟨rfl, fun j hj => absurd hj (by omega)⟩
  | succ m ih =>
    intro f l h
    simp only [readAll] at h
    cases h0 : f 0 with
    | none => simp [h0] at h
    | some a =>
      simp only [h0, Option.map_eq_some_iff] at h
      obtain ⟨t, ht, rfl⟩ := h
      obtain ⟨hlen, hget⟩ := ih ht
      refine ⟨by simp [hlen], fun j hj => ?_⟩
      cases j with
      | zero => simp [h0]
      | succ j => simpa using hget j (by omega)

/-- A range that exists reads as its elements, in index order. -/
theorem bankRead_spec {α : Type} {n : Nat} (b : Vector α n) {off m : Nat} (h : off + m ≤ n) :
    ∃ l, bankRead b off m = some l ∧ l.length = m ∧ ∀ j, j < m → l[j]? = bankGet b (off + 1 + j) := by
  have hsome : ∀ j, j < m → ∃ v, bankGet b (off + 1 + j) = some v :=
    fun j hj => bankGet_eq_some_of_mem b (by omega) (by omega)
  cases hr : bankRead b off m with
  | none =>
    exfalso
    by_cases hm : m = 0
    · subst hm; simp [bankRead, readAll] at hr
    · have hg : ∀ j, j < m → bankGet b (off + 1 + j)
          = some ((bankGet b (off + 1 + j)).getD (b[0]'(by omega))) := by
        intro j hj
        obtain ⟨v, hv⟩ := hsome j hj
        simp [hv]
      rw [bankRead, readAll_eq_some m hg] at hr
      simp at hr
  | some l =>
    obtain ⟨h1, h2⟩ := readAll_some_spec m hr
    exact ⟨l, rfl, h1, h2⟩

/-! ### Counters -/

/-- Adding to an element: it grows modulo 2^16, every other element is as before; an absent element changes nothing. -/
theorem bankGet_bankAdd {n : Nat} (b : Vector Word n) (k d m : Nat) :
    bankGet (bankAdd b k d) m =
      if m = k then (bankGet b k).map (· + BitVec.ofNat 16 d) else bankGet b m := by
  unfold bankAdd
  by_cases hk : 1 ≤ k ∧ k ≤ n
  · obtain ⟨v, hv⟩ := bankGet_eq_some_of_mem b hk.1 hk.2
    obtain ⟨b', hb', hget⟩ := bankPut_spec b (v + BitVec.ofNat 16 d) hk.1 hk.2
    simp only [hv, hb', Option.getD_some, hget, Option.map_some]
  · rw [bankGet_eq_none b hk]
    by_cases hm : m = k
    · subst hm; simp [bankGet_eq_none b hk]
    · simp [hm]

end Sys2Proof.Machine
end

