-- ==== Sys2Proof/Laws/Operands.lean ====
section
/-!
SUPPORT. What packing, unpacking, register data and byte order do, said once for each.
-/

namespace Sys2Proof.Machine

theorem getLsbD_ofBool_shift (b : Bool) (i k : Nat) (hk : k < 8) :
    ((BitVec.ofBool b).setWidth 8 <<< i).getLsbD k = (decide (k = i) && b) := by
  simp only [BitVec.getLsbD_shiftLeft, BitVec.getLsbD_setWidth, BitVec.getLsbD_ofBool]
  by_cases h : k < i
  · simp [h]; omega
  · by_cases h2 : k = i
    · subst h2; simp [hk]
    · have : k - i ≠ 0 := by omega
      simp [h, h2, this]

/-- Bit 7 - j of a packed byte is the j-th element of its group, 0 where there is none (R54, R140). -/
theorem getLsbD_packByte (g : List Bool) {j : Nat} (hj : j < 8) :
    (packByte g).getLsbD (7 - j) = g.getD j false := by
  have key : ∀ (l : List Nat) (d : Byte) (k : Nat), k < 8 →
      (l.foldl (fun d j => d ||| ((BitVec.ofBool (g.getD j false)).setWidth 8 <<< (7 - j))) d).getLsbD k =
        (d.getLsbD k || l.any (fun j => decide (k = 7 - j) && g.getD j false)) := by
    intro l
    induction l with
    | nil => intro d k _; simp
    | cons x l ih =>
      intro d k hk
      rw [List.foldl_cons, ih _ _ hk, BitVec.getLsbD_or, getLsbD_ofBool_shift _ _ _ hk, List.any_cons, Bool.or_assoc]
  rw [packByte, key _ _ _ (by omega)]
  simp only [BitVec.ofNat_eq_ofNat, BitVec.getLsbD_zero, Bool.false_or]
  rw [Bool.eq_iff_iff, List.any_eq_true]
  constructor
  · rintro ⟨x, hx, h⟩
    simp only [List.mem_range] at hx
    simp only [Bool.and_eq_true, decide_eq_true_eq] at h
    obtain ⟨h1, h2⟩ := h
    have : x = j := by omega
    exact this ▸ h2
  · intro h
    exact ⟨j, by simpa using hj, by rw [h]; simp⟩

theorem length_packBits (bits : List Bool) : (packBits bits).length = packedLen bits.length := by
  simp [packBits]

/-- Every bit of packed data: the element of the same number, or a 0 of the padding (R140). -/
theorem packedBit_packBits (bits : List Bool) {j : Nat} (hj : j < 8 * packedLen bits.length) :
    packedBit (packBits bits) j = some (bits.getD j false) := by
  have h8 : j / 8 < packedLen bits.length := by omega
  have hm : j % 8 < 8 := Nat.mod_lt _ (by omega)
  have hj' : 8 * (j / 8) + j % 8 = j := Nat.div_add_mod j 8
  simp only [packedBit, packBits, List.getElem?_map, List.getElem?_range h8, Option.map_some, Option.some.injEq]
  rw [getLsbD_packByte _ hm]
  simp [List.getD_eq_getElem?_getD, List.getElem?_drop, hm, hj']

theorem packedBit_isSome {data : List Byte} {j : Nat} : (packedBit data j).isSome = decide (j / 8 < data.length) := by
  rw [packedBit, Option.isSome_map, Bool.eq_iff_iff, decide_eq_true_eq, isSome_getElem?]

theorem packedLen_le_iff {n m : Nat} : packedLen n ≤ m ↔ n ≤ 8 * m := by unfold packedLen; omega

/-- UNPACK on enough data. -/
theorem unpackBits_eq_some {n : Nat} {data : List Byte} (h : packedLen n ≤ data.length) :
    ∃ bits, unpackBits n data = some bits ∧ bits.length = n ∧ ∀ j, j < n → bits[j]? = packedBit data j := by
  have hg : ∀ j, j < n → packedBit data j = some ((packedBit data j).getD false) := by
    intro j hj
    have : (packedBit data j).isSome = true := by
      rw [packedBit_isSome, decide_eq_true_eq]; unfold packedLen at h; omega
    obtain ⟨v, hv⟩ := Option.isSome_iff_exists.mp this
    simp [hv]
  have hs := readAll_eq_some n hg
  exact ⟨_, hs, readAll_some_spec n hs⟩

/-- UNPACK on too little data (R123). -/
theorem unpackBits_eq_none {n : Nat} {data : List Byte} (h : data.length < packedLen n) : unpackBits n data = none := by
  refine readAll_eq_none n (j := 8 * data.length) (by unfold packedLen at h; omega) ?_
  simp [packedBit]

/-- Function 16's data, when there is enough of it. -/
theorem dataWords_eq_some {n : Nat} {data : List Byte} (h : 2 * n ≤ data.length) :
    ∃ ws, dataWords n data = some ws ∧ ws.length = n ∧ ∀ k, k < n → ws[k]? = dataWord data k := by
  have hg : ∀ k, k < n → dataWord data k = some ((dataWord data k).getD 0) := by
    intro k hk
    have h1 : 2 * k < data.length := by omega
    have h2 : 2 * k + 1 < data.length := by omega
    simp [dataWord, h1, h2]
  have hs := readAll_eq_some n hg
  exact ⟨_, hs, readAll_some_spec n hs⟩

/-- Function 16's data, when there is too little (R123). -/
theorem dataWords_eq_none {n : Nat} {data : List Byte} (h : data.length < 2 * n) : dataWords n data = none := by
  refine readAll_eq_none n (j := data.length / 2) (by omega) ?_
  have h2 : data.length ≤ 2 * (data.length / 2) + 1 := by omega
  simp [dataWord, List.getElem?_eq_none h2]

theorem length_wordsToBytes (ws : List Word) : (wordsToBytes ws).length = 2 * ws.length := by
  induction ws with
  | nil => rfl
  | cons w ws ih =>
    simp only [wordsToBytes, List.flatMap_cons, List.length_append, List.length_cons] at *
    simp [bigEndian, ih]; omega

/-- Byte 2k of a word sequence is the high byte of word k, byte 2k + 1 its low byte (R146). -/
theorem getElem?_wordsToBytes (ws : List Word) (k : Nat) :
    (wordsToBytes ws)[2 * k]? = (ws[k]?).map hiByte ∧ (wordsToBytes ws)[2 * k + 1]? = (ws[k]?).map loByte := by
  induction ws generalizing k with
  | nil => simp [wordsToBytes]
  | cons w ws ih =>
    have hc : wordsToBytes (w :: ws) = hiByte w :: loByte w :: wordsToBytes ws := rfl
    cases k with
    | zero => simp [hc]
    | succ k =>
      have e1 : 2 * (k + 1) = (2 * k).succ.succ := by omega
      rw [hc, e1]
      exact ih k

theorem hiByte_wordOf (h l : Byte) : hiByte (wordOf h l) = h := by
  apply BitVec.eq_of_getLsbD_eq
  intro i hi
  simp only [hiByte, wordOf, BitVec.getLsbD_extractLsb', BitVec.getLsbD_append]
  simp [hi]

theorem loByte_wordOf (h l : Byte) : loByte (wordOf h l) = l := by
  apply BitVec.eq_of_getLsbD_eq
  intro i hi
  simp only [loByte, wordOf, BitVec.getLsbD_extractLsb', BitVec.getLsbD_append]
  simp [hi]

theorem wordOf_hiByte_loByte (w : Word) : wordOf (hiByte w) (loByte w) = w := by
  apply BitVec.eq_of_getLsbD_eq
  intro i hi
  simp only [wordOf, hiByte, loByte, BitVec.getLsbD_append, BitVec.getLsbD_extractLsb']
  by_cases h : i < 8
  · simp [h]
  · have h1 : i - 8 < 8 := by omega
    simp [h, h1]; congr 1; omega

theorem wordOf_toNat (h l : Byte) : (wordOf h l).toNat = h.toNat * 256 + l.toNat := by
  have := l.isLt
  simp only [wordOf, BitVec.toNat_append]
  rw [← Nat.shiftLeft_add_eq_or_of_lt this, Nat.shiftLeft_eq]
end Sys2Proof.Machine
end

