-- ==== Sys2Proof/Laws/Decode.lean ====
section
/-!
SUPPORT. What the reads of a frame, the function-code compare, the CRC register and a sealed frame do, said once for each.
-/

namespace Sys2Proof.Machine

/-! ### Reads of a frame -/

theorem field_eq_some {f : List Byte} {i : Nat} (h : i + 3 ≤ f.length) : field f i = some (f.getD i 0) := by
  have hi : i < f.length := by omega
  simp [field, h, hi]

theorem field_eq_none {f : List Byte} {i : Nat} (h : f.length < i + 3) : field f i = none := by
  simp only [field, if_neg (Nat.not_le_of_lt h)]

/-- Two payload bytes, high byte first (R17, R76). -/
theorem be16_eq_some {f : List Byte} {i : Nat} (h : i + 4 ≤ f.length) :
    be16 f i = some (wordOf (f.getD i 0) (f.getD (i + 1) 0)) := by
  simp only [be16, field_eq_some (show i + 3 ≤ f.length by omega), field_eq_some (show i + 1 + 3 ≤ f.length by omega)]

theorem be16_eq_none {f : List Byte} {i : Nat} (h : f.length < i + 4) : be16 f i = none := by
  unfold be16
  rw [field_eq_none (i := i + 1) (by omega)]
  cases field f i <;> rfl

/-! ### Function codes -/

theorem ofByte_byte (c : FunctionCode) : FunctionCode.ofByte c.byte = some c := by
  cases c <;> decide

/-- The compare selects a function for its own byte and for no other (R79). -/
theorem ofByte_eq_some_iff {b : Byte} {c : FunctionCode} : FunctionCode.ofByte b = some c ↔ b = c.byte := by
  constructor
  · intro h
    have := List.find?_some h
    exact (beq_iff_eq.mp this).symm
  · rintro rfl
    exact ofByte_byte c

/-! ### The CRC register and sealed frames -/

theorem crcOver_append (m n : List Byte) : crcOver (m ++ n) = n.foldl crcStep (crcOver m) := by
  simp [crcOver]

theorem crcShifts_succ (k : Nat) (c : Word) : crcShifts (k + 1) c = crcShifts k (crcShift c) := rfl

/-- The payload of a sealed frame is what was sealed. -/
theorem payload_sealFrame (m : List Byte) : payload (sealFrame m) = m := by
  simp [payload, sealFrame, littleEndian]

theorem length_sealFrame (m : List Byte) : (sealFrame m).length = m.length + 2 := by
  simp [sealFrame, littleEndian]

end Sys2Proof.Machine
end

