-- ==== Sys2Proof/Laws/State.lean ====
section
/-!
SUPPORT. One lemma per field per update of State, each true by rfl, so that no later proof unfolds an update; and the fields
after sealing and finishing.
-/

namespace Sys2Proof.Machine

/-! ### scheduled: an event delivered -/

@[simp] theorem State.scheduled_DO (s : State) (rest : List HostEvent) : (s.scheduled rest).DO = s.DO := rfl
@[simp] theorem State.scheduled_DI (s : State) (rest : List HostEvent) : (s.scheduled rest).DI = s.DI := rfl
@[simp] theorem State.scheduled_HR (s : State) (rest : List HostEvent) : (s.scheduled rest).HR = s.HR := rfl
@[simp] theorem State.scheduled_IR (s : State) (rest : List HostEvent) : (s.scheduled rest).IR = s.IR := rfl
@[simp] theorem State.scheduled_slaveAddr (s : State) (rest : List HostEvent) : (s.scheduled rest).slaveAddr = s.slaveAddr := rfl
@[simp] theorem State.scheduled_cfg (s : State) (rest : List HostEvent) : (s.scheduled rest).cfg = s.cfg := rfl
@[simp] theorem State.scheduled_req (s : State) (rest : List HostEvent) : (s.scheduled rest).req = s.req := rfl
@[simp] theorem State.scheduled_rsp (s : State) (rest : List HostEvent) : (s.scheduled rest).rsp = s.rsp := rfl
@[simp] theorem State.scheduled_crc (s : State) (rest : List HostEvent) : (s.scheduled rest).crc = s.crc := rfl
@[simp] theorem State.scheduled_phase (s : State) (rest : List HostEvent) : (s.scheduled rest).phase = s.phase := rfl
@[simp] theorem State.scheduled_rspValid (s : State) (rest : List HostEvent) : (s.scheduled rest).rspValid = s.rspValid := rfl
@[simp] theorem State.scheduled_outcome (s : State) (rest : List HostEvent) : (s.scheduled rest).outcome = s.outcome := rfl
@[simp] theorem State.scheduled_host (s : State) (rest : List HostEvent) : (s.scheduled rest).host = rest := rfl
@[simp] theorem State.scheduled_draws (s : State) (rest : List HostEvent) : (s.scheduled rest).draws = s.draws := rfl

/-! ### setDO: the coils written -/

@[simp] theorem State.setDO_DO (s : State) (b : Vector Bool capDO) : (s.setDO b).DO = b := rfl
@[simp] theorem State.setDO_DI (s : State) (b : Vector Bool capDO) : (s.setDO b).DI = s.DI := rfl
@[simp] theorem State.setDO_HR (s : State) (b : Vector Bool capDO) : (s.setDO b).HR = s.HR := rfl
@[simp] theorem State.setDO_IR (s : State) (b : Vector Bool capDO) : (s.setDO b).IR = s.IR := rfl
@[simp] theorem State.setDO_slaveAddr (s : State) (b : Vector Bool capDO) : (s.setDO b).slaveAddr = s.slaveAddr := rfl
@[simp] theorem State.setDO_cfg (s : State) (b : Vector Bool capDO) : (s.setDO b).cfg = s.cfg := rfl
@[simp] theorem State.setDO_req (s : State) (b : Vector Bool capDO) : (s.setDO b).req = s.req := rfl
@[simp] theorem State.setDO_rsp (s : State) (b : Vector Bool capDO) : (s.setDO b).rsp = s.rsp := rfl
@[simp] theorem State.setDO_crc (s : State) (b : Vector Bool capDO) : (s.setDO b).crc = s.crc := rfl
@[simp] theorem State.setDO_phase (s : State) (b : Vector Bool capDO) : (s.setDO b).phase = s.phase := rfl
@[simp] theorem State.setDO_rspValid (s : State) (b : Vector Bool capDO) : (s.setDO b).rspValid = s.rspValid := rfl
@[simp] theorem State.setDO_outcome (s : State) (b : Vector Bool capDO) : (s.setDO b).outcome = s.outcome := rfl
@[simp] theorem State.setDO_host (s : State) (b : Vector Bool capDO) : (s.setDO b).host = s.host := rfl
@[simp] theorem State.setDO_draws (s : State) (b : Vector Bool capDO) : (s.setDO b).draws = s.draws := rfl

/-! ### setHR: the holding registers written -/

@[simp] theorem State.setHR_DO (s : State) (b : Vector Word capHR) : (s.setHR b).DO = s.DO := rfl
@[simp] theorem State.setHR_DI (s : State) (b : Vector Word capHR) : (s.setHR b).DI = s.DI := rfl
@[simp] theorem State.setHR_HR (s : State) (b : Vector Word capHR) : (s.setHR b).HR = b := rfl
@[simp] theorem State.setHR_IR (s : State) (b : Vector Word capHR) : (s.setHR b).IR = s.IR := rfl
@[simp] theorem State.setHR_slaveAddr (s : State) (b : Vector Word capHR) : (s.setHR b).slaveAddr = s.slaveAddr := rfl
@[simp] theorem State.setHR_cfg (s : State) (b : Vector Word capHR) : (s.setHR b).cfg = s.cfg := rfl
@[simp] theorem State.setHR_req (s : State) (b : Vector Word capHR) : (s.setHR b).req = s.req := rfl
@[simp] theorem State.setHR_rsp (s : State) (b : Vector Word capHR) : (s.setHR b).rsp = s.rsp := rfl
@[simp] theorem State.setHR_crc (s : State) (b : Vector Word capHR) : (s.setHR b).crc = s.crc := rfl
@[simp] theorem State.setHR_phase (s : State) (b : Vector Word capHR) : (s.setHR b).phase = s.phase := rfl
@[simp] theorem State.setHR_rspValid (s : State) (b : Vector Word capHR) : (s.setHR b).rspValid = s.rspValid := rfl
@[simp] theorem State.setHR_outcome (s : State) (b : Vector Word capHR) : (s.setHR b).outcome = s.outcome := rfl
@[simp] theorem State.setHR_host (s : State) (b : Vector Word capHR) : (s.setHR b).host = s.host := rfl
@[simp] theorem State.setHR_draws (s : State) (b : Vector Word capHR) : (s.setHR b).draws = s.draws := rfl

/-! ### drew: free values drawn -/

@[simp] theorem State.drew_DO (s : State) (k : Nat) : (s.drew k).DO = s.DO := rfl
@[simp] theorem State.drew_DI (s : State) (k : Nat) : (s.drew k).DI = s.DI := rfl
@[simp] theorem State.drew_HR (s : State) (k : Nat) : (s.drew k).HR = s.HR := rfl
@[simp] theorem State.drew_IR (s : State) (k : Nat) : (s.drew k).IR = s.IR := rfl
@[simp] theorem State.drew_slaveAddr (s : State) (k : Nat) : (s.drew k).slaveAddr = s.slaveAddr := rfl
@[simp] theorem State.drew_cfg (s : State) (k : Nat) : (s.drew k).cfg = s.cfg := rfl
@[simp] theorem State.drew_req (s : State) (k : Nat) : (s.drew k).req = s.req := rfl
@[simp] theorem State.drew_rsp (s : State) (k : Nat) : (s.drew k).rsp = s.rsp := rfl
@[simp] theorem State.drew_crc (s : State) (k : Nat) : (s.drew k).crc = s.crc := rfl
@[simp] theorem State.drew_phase (s : State) (k : Nat) : (s.drew k).phase = s.phase := rfl
@[simp] theorem State.drew_rspValid (s : State) (k : Nat) : (s.drew k).rspValid = s.rspValid := rfl
@[simp] theorem State.drew_outcome (s : State) (k : Nat) : (s.drew k).outcome = s.outcome := rfl
@[simp] theorem State.drew_host (s : State) (k : Nat) : (s.drew k).host = s.host := rfl
@[simp] theorem State.drew_draws (s : State) (k : Nat) : (s.drew k).draws = s.draws + k := rfl

/-! ### respond: a handler that answers -/

@[simp] theorem State.respond_DO (s : State) (o : TxOutcome) (body : List Byte) : (s.respond o body).DO = s.DO := rfl
@[simp] theorem State.respond_DI (s : State) (o : TxOutcome) (body : List Byte) : (s.respond o body).DI = s.DI := rfl
@[simp] theorem State.respond_HR (s : State) (o : TxOutcome) (body : List Byte) : (s.respond o body).HR = s.HR := rfl
@[simp] theorem State.respond_IR (s : State) (o : TxOutcome) (body : List Byte) : (s.respond o body).IR = s.IR := rfl
@[simp] theorem State.respond_slaveAddr (s : State) (o : TxOutcome) (body : List Byte) : (s.respond o body).slaveAddr = s.slaveAddr := rfl
@[simp] theorem State.respond_cfg (s : State) (o : TxOutcome) (body : List Byte) : (s.respond o body).cfg = s.cfg := rfl
@[simp] theorem State.respond_req (s : State) (o : TxOutcome) (body : List Byte) : (s.respond o body).req = s.req := rfl
@[simp] theorem State.respond_rsp (s : State) (o : TxOutcome) (body : List Byte) : (s.respond o body).rsp = body ++ [Config.freeByte s.draws, Config.freeByte (s.draws + 1)] := rfl
@[simp] theorem State.respond_crc (s : State) (o : TxOutcome) (body : List Byte) : (s.respond o body).crc = s.crc := rfl
@[simp] theorem State.respond_phase (s : State) (o : TxOutcome) (body : List Byte) : (s.respond o body).phase = .seal := rfl
@[simp] theorem State.respond_rspValid (s : State) (o : TxOutcome) (body : List Byte) : (s.respond o body).rspValid = s.rspValid := rfl
@[simp] theorem State.respond_outcome (s : State) (o : TxOutcome) (body : List Byte) : (s.respond o body).outcome = some o := rfl
@[simp] theorem State.respond_host (s : State) (o : TxOutcome) (body : List Byte) : (s.respond o body).host = s.host := rfl
@[simp] theorem State.respond_draws (s : State) (o : TxOutcome) (body : List Byte) : (s.respond o body).draws = s.draws + 2 := rfl

/-! ### dropped: a drop -/

@[simp] theorem State.dropped_DO (s : State) (r : DropReason) : (s.dropped r).DO = s.DO := rfl
@[simp] theorem State.dropped_DI (s : State) (r : DropReason) : (s.dropped r).DI = s.DI := rfl
@[simp] theorem State.dropped_HR (s : State) (r : DropReason) : (s.dropped r).HR = s.HR := rfl
@[simp] theorem State.dropped_IR (s : State) (r : DropReason) : (s.dropped r).IR = s.IR := rfl
@[simp] theorem State.dropped_slaveAddr (s : State) (r : DropReason) : (s.dropped r).slaveAddr = s.slaveAddr := rfl
@[simp] theorem State.dropped_cfg (s : State) (r : DropReason) : (s.dropped r).cfg = s.cfg := rfl
@[simp] theorem State.dropped_req (s : State) (r : DropReason) : (s.dropped r).req = s.req := rfl
@[simp] theorem State.dropped_rsp (s : State) (r : DropReason) : (s.dropped r).rsp = [] := rfl
@[simp] theorem State.dropped_crc (s : State) (r : DropReason) : (s.dropped r).crc = s.crc := rfl
@[simp] theorem State.dropped_phase (s : State) (r : DropReason) : (s.dropped r).phase = .count := rfl
@[simp] theorem State.dropped_rspValid (s : State) (r : DropReason) : (s.dropped r).rspValid = s.rspValid := rfl
@[simp] theorem State.dropped_outcome (s : State) (r : DropReason) : (s.dropped r).outcome = some (.drop r) := rfl
@[simp] theorem State.dropped_host (s : State) (r : DropReason) : (s.dropped r).host = s.host := rfl
@[simp] theorem State.dropped_draws (s : State) (r : DropReason) : (s.dropped r).draws = s.draws := rfl

/-! ### accept: accepting a request -/

@[simp] theorem State.accept_DO (s : State) (f : List Byte) : (s.accept f).DO = s.DO := rfl
@[simp] theorem State.accept_DI (s : State) (f : List Byte) : (s.accept f).DI = s.DI := rfl
@[simp] theorem State.accept_HR (s : State) (f : List Byte) : (s.accept f).HR = s.HR := rfl
@[simp] theorem State.accept_IR (s : State) (f : List Byte) : (s.accept f).IR = s.IR := rfl
@[simp] theorem State.accept_slaveAddr (s : State) (f : List Byte) : (s.accept f).slaveAddr = s.slaveAddr := rfl
@[simp] theorem State.accept_cfg (s : State) (f : List Byte) : (s.accept f).cfg = s.cfg := rfl
@[simp] theorem State.accept_req (s : State) (f : List Byte) : (s.accept f).req = f := rfl
@[simp] theorem State.accept_rsp (s : State) (f : List Byte) : (s.accept f).rsp = s.rsp := rfl
@[simp] theorem State.accept_crc (s : State) (f : List Byte) : (s.accept f).crc = s.crc := rfl
@[simp] theorem State.accept_phase (s : State) (f : List Byte) : (s.accept f).phase = .validate := rfl
@[simp] theorem State.accept_rspValid (s : State) (f : List Byte) : (s.accept f).rspValid = false := rfl
@[simp] theorem State.accept_outcome (s : State) (f : List Byte) : (s.accept f).outcome = s.outcome := rfl
@[simp] theorem State.accept_host (s : State) (f : List Byte) : (s.accept f).host = s.host := rfl
@[simp] theorem State.accept_draws (s : State) (f : List Byte) : (s.accept f).draws = s.draws := rfl

/-! ### validated: passing the validator -/

@[simp] theorem State.validated_DO (s : State) : s.validated.DO = s.DO := rfl
@[simp] theorem State.validated_DI (s : State) : s.validated.DI = s.DI := rfl
@[simp] theorem State.validated_HR (s : State) : s.validated.HR = s.HR := rfl
@[simp] theorem State.validated_IR (s : State) : s.validated.IR = s.IR := rfl
@[simp] theorem State.validated_slaveAddr (s : State) : s.validated.slaveAddr = s.slaveAddr := rfl
@[simp] theorem State.validated_cfg (s : State) : s.validated.cfg = s.cfg := rfl
@[simp] theorem State.validated_req (s : State) : s.validated.req = s.req := rfl
@[simp] theorem State.validated_rsp (s : State) : s.validated.rsp = s.rsp := rfl
@[simp] theorem State.validated_crc (s : State) : s.validated.crc = crcOver (payload s.req) := rfl
@[simp] theorem State.validated_phase (s : State) : s.validated.phase = .dispatch := rfl
@[simp] theorem State.validated_rspValid (s : State) : s.validated.rspValid = s.rspValid := rfl
@[simp] theorem State.validated_outcome (s : State) : s.validated.outcome = s.outcome := rfl
@[simp] theorem State.validated_host (s : State) : s.validated.host = s.host := rfl
@[simp] theorem State.validated_draws (s : State) : s.validated.draws = s.draws := rfl

/-! ### handling: dispatch -/

@[simp] theorem State.handling_DO (s : State) : s.handling.DO = s.DO := rfl
@[simp] theorem State.handling_DI (s : State) : s.handling.DI = s.DI := rfl
@[simp] theorem State.handling_HR (s : State) : s.handling.HR = s.HR := rfl
@[simp] theorem State.handling_IR (s : State) : s.handling.IR = s.IR := rfl
@[simp] theorem State.handling_slaveAddr (s : State) : s.handling.slaveAddr = s.slaveAddr := rfl
@[simp] theorem State.handling_cfg (s : State) : s.handling.cfg = s.cfg := rfl
@[simp] theorem State.handling_req (s : State) : s.handling.req = s.req := rfl
@[simp] theorem State.handling_rsp (s : State) : s.handling.rsp = s.rsp := rfl
@[simp] theorem State.handling_crc (s : State) : s.handling.crc = s.crc := rfl
@[simp] theorem State.handling_phase (s : State) : s.handling.phase = .handle := rfl
@[simp] theorem State.handling_rspValid (s : State) : s.handling.rspValid = s.rspValid := rfl
@[simp] theorem State.handling_outcome (s : State) : s.handling.outcome = s.outcome := rfl
@[simp] theorem State.handling_host (s : State) : s.handling.host = s.host := rfl
@[simp] theorem State.handling_draws (s : State) : s.handling.draws = s.draws := rfl

/-! ### counted: COUNT -/

@[simp] theorem State.counted_DO (s : State) : s.counted.DO = s.DO := rfl
@[simp] theorem State.counted_DI (s : State) : s.counted.DI = s.DI := rfl
@[simp] theorem State.counted_HR (s : State) : s.counted.HR = s.HR := rfl
@[simp] theorem State.counted_IR (s : State) : s.counted.IR = bankAdd (bankAdd (bankAdd s.IR s.cfg.idxReqCount 1) s.cfg.idxRxBytes s.req.length) s.cfg.idxTxBytes s.rsp.length := rfl
@[simp] theorem State.counted_slaveAddr (s : State) : s.counted.slaveAddr = s.slaveAddr := rfl
@[simp] theorem State.counted_cfg (s : State) : s.counted.cfg = s.cfg := rfl
@[simp] theorem State.counted_req (s : State) : s.counted.req = s.req := rfl
@[simp] theorem State.counted_rsp (s : State) : s.counted.rsp = s.rsp := rfl
@[simp] theorem State.counted_crc (s : State) : s.counted.crc = s.crc := rfl
@[simp] theorem State.counted_phase (s : State) : s.counted.phase = s.phase := rfl
@[simp] theorem State.counted_rspValid (s : State) : s.counted.rspValid = s.rspValid := rfl
@[simp] theorem State.counted_outcome (s : State) : s.counted.outcome = s.outcome := rfl
@[simp] theorem State.counted_host (s : State) : s.counted.host = s.host := rfl
@[simp] theorem State.counted_draws (s : State) : s.counted.draws = s.draws := rfl

/-! ### completed: completion -/

@[simp] theorem State.completed_DO (s : State) : s.completed.DO = s.DO := rfl
@[simp] theorem State.completed_DI (s : State) : s.completed.DI = s.DI := rfl
@[simp] theorem State.completed_HR (s : State) : s.completed.HR = s.HR := rfl
@[simp] theorem State.completed_IR (s : State) : s.completed.IR = s.IR := rfl
@[simp] theorem State.completed_slaveAddr (s : State) : s.completed.slaveAddr = s.slaveAddr := rfl
@[simp] theorem State.completed_cfg (s : State) : s.completed.cfg = s.cfg := rfl
@[simp] theorem State.completed_req (s : State) : s.completed.req = [] := rfl
@[simp] theorem State.completed_rsp (s : State) : s.completed.rsp = s.rsp := rfl
@[simp] theorem State.completed_crc (s : State) : s.completed.crc = Config.freeCrc s.draws := rfl
@[simp] theorem State.completed_phase (s : State) : s.completed.phase = s.phase := rfl
@[simp] theorem State.completed_rspValid (s : State) : s.completed.rspValid = true := rfl
@[simp] theorem State.completed_outcome (s : State) : s.completed.outcome = s.outcome := rfl
@[simp] theorem State.completed_host (s : State) : s.completed.host = s.host := rfl
@[simp] theorem State.completed_draws (s : State) : s.completed.draws = s.draws + 1 := rfl

/-! ### released: RSP_TAKEN -/

/-- Whatever the buffer holds between transactions fits it (R31). -/
theorem State.length_freeBuffer_le (s : State) : s.freeBuffer.length ≤ s.cfg.maxFrameLen :=
  List.length_take_le _ _

@[simp] theorem State.released_DO (s : State) : s.released.DO = s.DO := rfl
@[simp] theorem State.released_DI (s : State) : s.released.DI = s.DI := rfl
@[simp] theorem State.released_HR (s : State) : s.released.HR = s.HR := rfl
@[simp] theorem State.released_IR (s : State) : s.released.IR = s.IR := rfl
@[simp] theorem State.released_slaveAddr (s : State) : s.released.slaveAddr = s.slaveAddr := rfl
@[simp] theorem State.released_cfg (s : State) : s.released.cfg = s.cfg := rfl
@[simp] theorem State.released_req (s : State) : s.released.req = s.req := rfl
@[simp] theorem State.released_rsp (s : State) : s.released.rsp = s.freeBuffer := rfl
@[simp] theorem State.released_crc (s : State) : s.released.crc = s.crc := rfl
@[simp] theorem State.released_phase (s : State) : s.released.phase = .idle := rfl
@[simp] theorem State.released_rspValid (s : State) : s.released.rspValid = false := rfl
@[simp] theorem State.released_outcome (s : State) : s.released.outcome = s.outcome := rfl
@[simp] theorem State.released_host (s : State) : s.released.host = s.host := rfl
@[simp] theorem State.released_draws (s : State) : s.released.draws = s.draws + 1 := rfl

/-! ### sealed: SEAL touches only the response, the CRC register and the phase -/

@[simp] theorem State.sealed_DO (s : State) : s.sealed.DO = s.DO := rfl
@[simp] theorem State.sealed_DI (s : State) : s.sealed.DI = s.DI := rfl
@[simp] theorem State.sealed_HR (s : State) : s.sealed.HR = s.HR := rfl
@[simp] theorem State.sealed_IR (s : State) : s.sealed.IR = s.IR := rfl
@[simp] theorem State.sealed_slaveAddr (s : State) : s.sealed.slaveAddr = s.slaveAddr := rfl
@[simp] theorem State.sealed_cfg (s : State) : s.sealed.cfg = s.cfg := rfl
@[simp] theorem State.sealed_req (s : State) : s.sealed.req = s.req := rfl
@[simp] theorem State.sealed_rspValid (s : State) : s.sealed.rspValid = s.rspValid := rfl
@[simp] theorem State.sealed_outcome (s : State) : s.sealed.outcome = s.outcome := rfl
@[simp] theorem State.sealed_host (s : State) : s.sealed.host = s.host := rfl
@[simp] theorem State.sealed_draws (s : State) : s.sealed.draws = s.draws := rfl
@[simp] theorem State.sealed_phase (s : State) : s.sealed.phase = .count := rfl

/-- An empty response passes the sealer unchanged (R109). -/
theorem State.sealed_rsp_nil {s : State} (h : s.rsp = []) : s.sealed.rsp = [] := by simp [State.sealed, h]

/-- A response with two reserved slots is sealed over all but those two, whatever they hold (R109, R126). -/
theorem State.sealed_rsp_append {s : State} {body : List Byte} {r0 r1 : Byte} (h : s.rsp = body ++ [r0, r1]) :
    s.sealed.rsp = sealFrame body := by
  simp [State.sealed, State.sealCrc, h, sealFrame]

/-- A drop stays silent (R201). -/
@[simp] theorem State.sealed_rsp_dropped (s : State) (r : DropReason) : (s.dropped r).sealed.rsp = [] :=
  State.sealed_rsp_nil rfl

/-- An answer is sealed over its body (R109). -/
@[simp] theorem State.sealed_rsp_respond (s : State) (o : TxOutcome) (body : List Byte) :
    (s.respond o body).sealed.rsp = sealFrame body :=
  State.sealed_rsp_append rfl

/-! ### finish: SEAL, COUNT and completion together -/

@[simp] theorem State.finish_DO (s : State) : s.finish.DO = s.DO := rfl
@[simp] theorem State.finish_DI (s : State) : s.finish.DI = s.DI := rfl
@[simp] theorem State.finish_HR (s : State) : s.finish.HR = s.HR := rfl
@[simp] theorem State.finish_IR (s : State) : s.finish.IR = bankAdd (bankAdd (bankAdd s.IR s.cfg.idxReqCount 1) s.cfg.idxRxBytes s.req.length) s.cfg.idxTxBytes s.sealed.rsp.length := rfl
@[simp] theorem State.finish_slaveAddr (s : State) : s.finish.slaveAddr = s.slaveAddr := rfl
@[simp] theorem State.finish_cfg (s : State) : s.finish.cfg = s.cfg := rfl
@[simp] theorem State.finish_req (s : State) : s.finish.req = [] := rfl
@[simp] theorem State.finish_rsp (s : State) : s.finish.rsp = s.sealed.rsp := rfl
@[simp] theorem State.finish_crc (s : State) : s.finish.crc = Config.freeCrc s.draws := rfl
@[simp] theorem State.finish_phase (s : State) : s.finish.phase = .count := rfl
@[simp] theorem State.finish_rspValid (s : State) : s.finish.rspValid = true := rfl
@[simp] theorem State.finish_outcome (s : State) : s.finish.outcome = s.outcome := rfl
@[simp] theorem State.finish_host (s : State) : s.finish.host = s.host := rfl
@[simp] theorem State.finish_draws (s : State) : s.finish.draws = s.draws + 1 := rfl

end Sys2Proof.Machine
end

