-- ==== Sys2Proof/Laws/Ops.lean ====
section
/-!
SUPPORT. What each shared operation can do, said once: the ends of a handler, the reads and writes of banks, the checks, the
validator.
-/

namespace Sys2Proof.Machine

/-! ### The ends of a handler -/

theorem answers_respond (s : State) (o : TxOutcome) (body : List Byte) : Answers (s.respond o body) o body := by
  refine ⟨rfl, rfl, ?_, ?_⟩ <;> simp

theorem onlyResponse_respond (s : State) (o : TxOutcome) (body : List Byte) : OnlyResponse s (s.respond o body) := rfl

theorem onlyResponse_trans {s t u : State} (h1 : OnlyResponse s t) (h2 : OnlyResponse t u) : OnlyResponse s u := by
  unfold OnlyResponse at *
  rw [h2, h1]

/-- An exception completes, with the response of R203 and nothing else changed (R206). -/
theorem takeException_spec (fc : Byte) (c : ExceptionCode) (s : State) :
    ∃ t, takeException fc c s = .next t ∧ Answers t (.exception c) (exceptionBody s fc c.byte) ∧ OnlyResponse s t :=
  ⟨_, rfl, answers_respond _ _ _, rfl⟩

/-- A read of a bank of bits within its range: the packed elements, and only the response changed. -/
theorem readBits_spec {c : Nat} (name : BankName) (bank : Vector Bool c) (fc : FunctionCode) {off m : Nat} (s : State)
    (h : off + m ≤ c) :
    ∃ data, PacksBank bank off m data ∧ readBits name bank fc off m s = .next (s.respond .normal (readBody s fc.byte data)) := by
  obtain ⟨bits, hb, hlen, hget⟩ := bankRead_spec bank h
  refine ⟨packBits bits, ⟨by rw [length_packBits, hlen], fun j hj => ?_⟩, by simp only [readBits, hb]; rfl⟩
  rw [length_packBits] at hj
  rw [packedBit_packBits bits hj]
  by_cases hn : j < m
  · have hb2 := hget j hn
    rw [if_pos hn, ← hb2]
    simp [hlen, hn]
  · rw [if_neg hn, List.getD_eq_getElem?_getD, List.getElem?_eq_none (by omega)]
    rfl

/-- A read of a bank of words within its range: the elements high byte first, and only the response changed. -/
theorem readWords_spec {c : Nat} (name : BankName) (bank : Vector Word c) (fc : FunctionCode) {off m : Nat} (s : State)
    (h : off + m ≤ c) :
    ∃ data, ServesBank bank off m data ∧ readWords name bank fc off m s = .next (s.respond .normal (readBody s fc.byte data)) := by
  obtain ⟨ws, hw, hlen, hget⟩ := bankRead_spec bank h
  refine ⟨wordsToBytes ws, ⟨by rw [length_wordsToBytes, hlen], fun k hk => ?_⟩, by simp only [readWords, hw]; rfl⟩
  rw [← hget k hk]
  exact getElem?_wordsToBytes ws k

/-- Function 02 without its range check, where the response fits (R143). -/
theorem readGap_spec {off m : Nat} (s : State) (h1 : packedLen m ≤ 255) (h2 : 5 + packedLen m ≤ s.cfg.maxFrameLen) :
    ∃ data, data.length = packedLen m ∧
      (∀ j, j < 8 * data.length → packedBit data j = some (if j < m then gapBit s off j else false)) ∧
      readGap off m s =
        .next ((s.drew m).respond .normal (readBody s FunctionCode.rdi.byte data)) := by
  have hlen : (packBits ((List.range m).map (gapBit s off))).length = packedLen m := by simp [length_packBits]
  refine ⟨packBits ((List.range m).map (gapBit s off)), hlen, fun j hj => ?_, ?_⟩
  · rw [hlen] at hj
    rw [packedBit_packBits _ (by simpa using hj), List.getD_eq_getElem?_getD, List.getElem?_map]
    by_cases hn : j < m
    · simp [hn]
    · simp [hn]
  · have hno : ¬ (255 < packedLen m ∨ s.cfg.maxFrameLen < 5 + packedLen m) := by omega
    simp only [readGap, if_neg hno]
    rfl

/-- The echo of a header, byte by byte (RS-ECHO, R75). -/
theorem echo_body (s : State) (fc : Byte) (off q : Word) : s.slaveAddr :: header fc off q = echoBody s fc off q := rfl

/-- A write of coils within the bank: the coils off+1 .. take the values, every other coil is as before. -/
theorem writeDO_spec (fc : FunctionCode) (off q : Word) (bits : List Bool) (s : State)
    (h : off.toNat + bits.length ≤ capDO) :
    ∃ bank, writeDO fc off q bits s = .next ((s.setDO bank).respond .normal (echoBody s fc.byte off q)) ∧
      ∀ k, bankGet bank k =
        if off.toNat + 1 ≤ k ∧ k ≤ off.toNat + bits.length then bits[k - (off.toNat + 1)]? else bankGet s.DO k := by
  obtain ⟨bank, hb, hget⟩ := bankWrite_spec bits s.DO (off.toNat + 1) (by omega) (by omega)
  refine ⟨bank, by simp only [writeDO, hb]; rfl, fun k => ?_⟩
  rw [hget]
  exact if_congr (by omega) rfl rfl

/-- A write of holding registers within the bank: the same. -/
theorem writeHR_spec (fc : FunctionCode) (off q : Word) (ws : List Word) (s : State)
    (h : off.toNat + ws.length ≤ capHR) :
    ∃ bank, writeHR fc off q ws s = .next ((s.setHR bank).respond .normal (echoBody s fc.byte off q)) ∧
      ∀ k, bankGet bank k =
        if off.toNat + 1 ≤ k ∧ k ≤ off.toNat + ws.length then ws[k - (off.toNat + 1)]? else bankGet s.HR k := by
  obtain ⟨bank, hb, hget⟩ := bankWrite_spec ws s.HR (off.toNat + 1) (by omega) (by omega)
  refine ⟨bank, by simp only [writeHR, hb]; rfl, fun k => ?_⟩
  rw [hget]
  exact if_congr (by omega) rfl rfl

/-! ### The checks -/

theorem inRange_iff {cap off n : Nat} : inRange cap off n = true ↔ off + n ≤ cap := by simp [inRange]

theorem countOk_iff {n : Word} {bc : Byte} :
    countOk n bc = true ↔ 1 ≤ n.toNat ∧ n.toNat ≤ 0x7B ∧ bc.toNat = 2 * n.toNat := by
  simp only [countOk, Bool.and_eq_true, decide_eq_true_eq, and_assoc]
  rfl

/-! ### The validator -/

/-- What passing the validator says of a frame (R106). -/
theorem validate_eq_none_iff {addr : Byte} {f : List Byte} :
    validate addr f = none ↔
      4 ≤ f.length ∧ f.getD 0 0 = addr ∧ crc16 (payload f) = (f.getD (f.length - 2) 0, f.getD (f.length - 1) 0) := by
  unfold validate
  split
  case isTrue h1 => exact ⟨(nomatch ·), fun h => absurd h.1 (by omega)⟩
  case isFalse h1 =>
    split
    case isTrue h2 => exact ⟨(nomatch ·), fun h => absurd h.2.1 h2⟩
    case isFalse h2 =>
      split
      case isTrue h3 => exact ⟨(nomatch ·), fun h => absurd h.2.2 h3⟩
      case isFalse h3 => exact ⟨fun _ => ⟨by omega, not_not.mp h2, not_not.mp h3⟩, fun _ => rfl⟩

end Sys2Proof.Machine
end

