-- ==== Sys2Proof/Laws/PerInstr.lean ====
section
/-!
SUPPORT. Statements about every instruction as syntax, proved constructor by constructor.
-/

/-! ### EncodesItsCode: byte 1 of an instruction's frame is its function code, and the payload is its body (R72, R73, R78) -/

namespace Sys2Proof.Laws.EncodesItsCode

open Sys2Proof.Machine

/-- The frame of `i`: at least four bytes, function code at index 1, payload of the address and the body. -/
def Statement (i : Instr) : Prop :=
  ∀ addr : Byte, 4 ≤ (encode addr i).length ∧ (encode addr i)[1]? = some i.fc ∧ payload (encode addr i) = addr :: i.body

/-- It is enough that the body starts with the code. -/
theorem of_body {i : Instr} {tail : List Byte} (h : i.body = i.fc :: tail) : Statement i := by
  intro addr
  refine ⟨?_, ?_, payload_sealFrame _⟩
  · simp only [encode, length_sealFrame, h, List.length_cons]; omega
  · simp [encode, sealFrame, h]

theorem rdo (off n : Word) : Statement (.rdo off n) := of_body rfl
theorem rdi (off n : Word) : Statement (.rdi off n) := of_body rfl
theorem rhr (off n : Word) : Statement (.rhr off n) := of_body rfl
theorem rir (off n : Word) (bc : Byte) : Statement (.rir off n bc) := of_body rfl
theorem wdo (off v : Word) : Statement (.wdo off v) := of_body rfl
theorem whr (off v : Word) : Statement (.whr off v) := of_body rfl
theorem wdon (off n : Word) (bc : Option Byte) (data : List Byte) : Statement (.wdon off n bc data) := of_body rfl
theorem whrn (off n : Word) (bc : Byte) (data : List Byte) : Statement (.whrn off n bc data) := of_body rfl
theorem illegal (fc : Byte) : Statement (.illegal fc) := of_body rfl

end Sys2Proof.Laws.EncodesItsCode
end

