-- ==== Sys2Proof/Laws/Transaction.lean ====
section
/-!
SUPPORT. What one step can do, said once.
-/

namespace Sys2Proof.Machine

/-! ### The state a handler starts in -/

@[simp] theorem State.atHandler_DO (s : State) (f : List Byte) (rest : List HostEvent) : (s.atHandler f rest).DO = s.DO := rfl
@[simp] theorem State.atHandler_DI (s : State) (f : List Byte) (rest : List HostEvent) : (s.atHandler f rest).DI = s.DI := rfl
@[simp] theorem State.atHandler_HR (s : State) (f : List Byte) (rest : List HostEvent) : (s.atHandler f rest).HR = s.HR := rfl
@[simp] theorem State.atHandler_IR (s : State) (f : List Byte) (rest : List HostEvent) : (s.atHandler f rest).IR = s.IR := rfl
@[simp] theorem State.atHandler_slaveAddr (s : State) (f : List Byte) (rest : List HostEvent) : (s.atHandler f rest).slaveAddr = s.slaveAddr := rfl
@[simp] theorem State.atHandler_cfg (s : State) (f : List Byte) (rest : List HostEvent) : (s.atHandler f rest).cfg = s.cfg := rfl
@[simp] theorem State.atHandler_req (s : State) (f : List Byte) (rest : List HostEvent) : (s.atHandler f rest).req = f := rfl
@[simp] theorem State.atHandler_rsp (s : State) (f : List Byte) (rest : List HostEvent) : (s.atHandler f rest).rsp = s.rsp := rfl
@[simp] theorem State.atHandler_crc (s : State) (f : List Byte) (rest : List HostEvent) : (s.atHandler f rest).crc = crcOver (payload f) := rfl
@[simp] theorem State.atHandler_phase (s : State) (f : List Byte) (rest : List HostEvent) : (s.atHandler f rest).phase = .handle := rfl
@[simp] theorem State.atHandler_rspValid (s : State) (f : List Byte) (rest : List HostEvent) : (s.atHandler f rest).rspValid = false := rfl
@[simp] theorem State.atHandler_outcome (s : State) (f : List Byte) (rest : List HostEvent) : (s.atHandler f rest).outcome = s.outcome := rfl
@[simp] theorem State.atHandler_host (s : State) (f : List Byte) (rest : List HostEvent) : (s.atHandler f rest).host = rest := rfl
@[simp] theorem State.atHandler_draws (s : State) (f : List Byte) (rest : List HostEvent) : (s.atHandler f rest).draws = s.draws := rfl

/-! ### One step -/

/-- What a step that answers a next state can do: nothing, one whole transaction that was dropped by the validator or ran its
handler, the response taken, or a reset. -/
theorem step_next_cases {s t : State} (h : step s = .next t) :
    (s.host = [] ∧ t = s) ∨
    (∃ f rest, s.host = .request f :: rest ∧ s.phase = .idle ∧ f.length ≤ s.cfg.maxFrameLen ∧
      ((∃ r, validate s.slaveAddr f = some r ∧
          t = (((s.scheduled rest).accept f).dropped r).finish) ∨
       (validate s.slaveAddr f = none ∧ ∃ e, decode f = .error e ∧
          t = (((s.scheduled rest).accept f).validated.dropped .short).finish) ∨
       (validate s.slaveAddr f = none ∧ ∃ i u, decode f = .ok i ∧ exec i (s.atHandler f rest) = .next u ∧ t = u.finish))) ∨
    (∃ rest, s.host = .taken :: rest ∧ s.rspValid = true ∧ t = (s.scheduled rest).released) ∨
    (∃ a p rest, s.host = .reset a p :: rest ∧ s.phase = .idle ∧ p.ok = true ∧
      t = (s.scheduled rest).reconstruct a p) := by
  unfold step nextEvent at h
  split at h
  case h_1 heq =>
    left
    cases h
    exact ⟨heq, rfl⟩
  case h_2 e rest heq =>
    right
    unfold deliver at h
    split at h
    case h_1 f =>
      left
      split at h
      · cases h
      · rename_i hp
        split at h
        · cases h
        · rename_i hl
          refine ⟨f, rest, heq, not_not.mp hp, Nat.le_of_not_lt hl, ?_⟩
          unfold transact at h
          split at h
          case h_1 r hv => left; cases h; exact ⟨r, hv, rfl⟩
          case h_2 hv =>
            right
            unfold finishResult dispatch at h
            cases hd : decode f with
            | error e =>
              left
              simp only [State.validated_req, State.accept_req, hd, dropShort] at h
              cases h
              exact ⟨hv, e, rfl, rfl⟩
            | ok i =>
              right
              simp only [State.validated_req, State.accept_req, hd] at h
              have hst : ((s.scheduled rest).accept f).validated.handling = s.atHandler f rest := rfl
              rw [hst] at h
              split at h
              case h_1 u hu => cases h; exact ⟨hv, i, u, rfl, hu, rfl⟩
              all_goals cases h
    case h_2 =>
      right; left
      split at h
      case isTrue hv => cases h; exact ⟨rest, heq, hv, rfl⟩
      case isFalse => cases h
    case h_3 a p =>
      right; right
      split at h
      · cases h
      · rename_i hp
        split at h
        case isTrue hok => cases h; exact ⟨a, p, rest, heq, not_not.mp hp, hok, rfl⟩
        case isFalse => cases h

end Sys2Proof.Machine
end

