-- ==== Sys2Proof/Tests/Slice0.lean ====
section
/-!
SUPPORT. Tests. Expected values are those of 95_test_vectors.md (the vector's id is in the docstring) or of a rule's worked
example, never the model's own answers. Witnesses at the end show that the hypotheses of each statement can be met together.
-/

-- One test after another: each kernel evaluation in flight holds a thread, and dozens at once exceed the sandbox's memory.
set_option Elab.async false

namespace Sys2Proof.Tests

open Sys2Proof.Machine

/-! ### Helpers -/

/-- The parameters of the vectors' start state S0: IR_SEED(k) = 0x1000 + k, everything else at its default. -/
def p0 : Config.Params :=
  { defaultParams with irSeed := bankOf capIR (fun k => BitVec.ofNat 16 (0x1000 + k)) }

/-- S0 with SLAVE_ADDR = addr. -/
def s0 (addr : Byte) : State := State.construct addr p0

/-- S0 with coils or holding registers that an earlier request would have set. -/
def s0With (coils : List Bool) (regs : List Word) : State :=
  { s0 0x01 with
    DO := bankOf capDO (fun k => coils.getD (k - 1) false)
    HR := bankOf capHR (fun k => regs.getD (k - 1) 0) }

/-- S0 with function 02's range check off (R143). -/
def s0Gap : State := State.construct 0x01 { p0 with fn02RangeCheck := false }

/-- Does a next state come out, and does it pass the test? -/
def nextIs (r : Result) (p : State → Bool) : Bool :=
  match r with
  | .next t => p t
  | .fault _ => false
  | .refused _ => false

theorem exists_next {r : Result} {p : State → Bool} (h : nextIs r p = true) : ∃ t, r = .next t ∧ p t = true := by
  cases r with
  | next t => exact ⟨t, rfl, h⟩
  | fault _ => cases h
  | refused _ => cases h

/-- Is the step refused for this reason? -/
def refusedBy (r : Result) (e : Refusal) : Bool :=
  match r with
  | .refused e' => decide (e' = e)
  | .next _ => false
  | .fault _ => false

/-- One transaction: the response and the outcome. -/
def gives (s : State) (f rsp : List Byte) (o : TxOutcome) : Bool :=
  nextIs (step (s.offer f)) (fun t => decide (t.rsp = rsp) && decide (t.outcome = some o))

/-- One transaction: a test on the state after it. -/
def leaves (s : State) (f : List Byte) (p : State → Bool) : Bool := nextIs (step (s.offer f)) p

/-! ### Well-formedness: an ill-formed term for each check -/

theorem test_wellFormed_refuses_legal_code : (Instr.illegal 0x03).wellFormed = false := by decide
theorem test_wellFormed_refuses_data_without_count : (Instr.wdon 0 8 none [0xFF]).wellFormed = false := by decide
theorem test_wellFormed_accepts : (Instr.illegal 0x07).wellFormed = true ∧ (Instr.wdon 0 0 none []).wellFormed = true := by
  decide

/-! ### Decoding: each constructor from a frame written bit by bit from R72, R73 and R78 -/

theorem test_decode_rdo :
    decode [0b00000001, 0b00000001, 0b00000000, 0b00010011, 0b00000000, 0b00000001, 0x0C, 0x0F] = .ok (.rdo 0x0013 0x0001) := by
  decide
theorem test_decode_rdi :
    decode [0b00000001, 0b00000010, 0b00000000, 0b00000011, 0b00000000, 0b00001001, 0x48, 0x0C] = .ok (.rdi 0x0003 0x0009) := by
  decide
theorem test_decode_rhr :
    decode [0b00000001, 0b00000011, 0b00000000, 0b00000011, 0b00000000, 0b00000001, 0x74, 0x0A] = .ok (.rhr 0x0003 0x0001) := by
  decide
theorem test_decode_rir :
    decode [0b00000001, 0b00000100, 0b00000000, 0b00010001, 0b00000000, 0b00000011, 0b00000110, 0x8F, 0x8A]
      = .ok (.rir 0x0011 0x0003 0x06) := by
  decide
theorem test_decode_rir_eight_bytes :
    decode [0b00010000, 0b00000100, 0b00000000, 0b00001111, 0b00000000, 0b00000001, 0x02, 0x88]
      = .ok (.rir 0x000F 0x0001 0x02) := by
  decide
theorem test_decode_wdo :
    decode [0b00000001, 0b00000101, 0b00000000, 0b00010011, 0b11111111, 0b00000000, 0x7D, 0xFF] = .ok (.wdo 0x0013 0xFF00) := by
  decide
theorem test_decode_whr :
    decode [0b00000001, 0b00000110, 0b00000001, 0b00000011, 0b00000000, 0b00000001, 0xB9, 0xF6] = .ok (.whr 0x0103 0x0001) := by
  decide
theorem test_decode_wdon :
    decode [0b00000001, 0b00001111, 0b00000000, 0b00000010, 0b00000000, 0b00000101, 0b00000001, 0b10101000, 0x17, 0x28]
      = .ok (.wdon 0x0002 0x0005 (some 0x01) [0xA8]) := by
  decide
theorem test_decode_whrn :
    decode [0b00000001, 0b00010000, 0b00000000, 0b00001000, 0b00000000, 0b00000010, 0b00000100, 0b00000000, 0b00000001,
        0b00000000, 0b00000010, 0x22, 0x08]
      = .ok (.whrn 0x0008 0x0002 0x04 [0x00, 0x01, 0x00, 0x02]) := by
  decide
theorem test_decode_illegal : decode [0b00000001, 0b00000111, 0x41, 0xE2] = .ok (.illegal 0x07) := by decide
/-- D-6: 0x15 is no spelling of function 15 (D19). -/
theorem test_decode_hexadecimal_fifteen : decode [0x01, 0x15, 0x00, 0x00, 0x00, 0x01, 0xCD, 0xC9] = .ok (.illegal 0x15) := by
  decide
/-- D-7, WR-8 and V-7. -/
theorem test_decode_rejects :
    decode [0x01, 0x03, 0x00, 0x00, 0x00, 0x19, 0x84] = .error .short ∧
    decode [0x01, 0x10, 0x00, 0x00, 0x00, 0x02, 0x41, 0xC8] = .error .short ∧
    decode [0x01, 0x7E, 0x80] = .error .tooShort := by
  decide
/-- The nine rows of the table, each from its own word. -/
theorem test_table_words :
    decodeTableWord 8 0x01 = some (.rdo 0 0) ∧ decodeTableWord 8 0x02 = some (.rdi 0 0) ∧
    decodeTableWord 8 0x03 = some (.rhr 0 0) ∧ decodeTableWord 8 0x04 = some (.rir 0 0 0) ∧
    decodeTableWord 8 0x05 = some (.wdo 0 0) ∧ decodeTableWord 8 0x06 = some (.whr 0 0) ∧
    decodeTableWord 8 0x0F = some (.wdon 0 0 (some 0) []) ∧ decodeTableWord 8 0x10 = some (.whrn 0 0 0 []) ∧
    decodeTableWord 8 0x00 = some (.illegal 0) := by
  decide +kernel
/-- R82: the mnemonic form expands to the frame of WM-1. -/
theorem test_encode_wdon :
    encode 0x01 (.wdon 0 10 (some 2) [0xCD, 0x40]) = [0x01, 0x0F, 0x00, 0x00, 0x00, 0x0A, 0x02, 0xCD, 0x40, 0xB0, 0x58] := by
  decide +kernel

/-! ### The CRC generator and the validator -/

/-- CRC-2, CRC-5 and CRC-12. -/
theorem test_crc :
    crcOver [0x00] = 0x40BF ∧ crcOver [0x00, 0x00] = 0xB001 ∧ crcOver [0x11, 0x03, 0x00, 0x01, 0x00, 0x01] = 0x5AD7 := by
  decide +kernel
/-- V-2. -/
theorem test_validator_address :
    gives (s0 0x01) [0x02, 0x03, 0x00, 0x00, 0x00, 0x01, 0x84, 0x39] [] (.drop .addrMismatch) = true := by decide +kernel
/-- V-4: the trailer bytes swapped. -/
theorem test_validator_swapped_trailer :
    gives (s0 0x01) [0x01, 0x03, 0x00, 0x00, 0x00, 0x01, 0x0A, 0x84] [] (.drop .crcMismatch) = true := by decide +kernel
/-- V-7. -/
theorem test_validator_too_short : gives (s0 0x01) [0x01, 0x7E, 0x80] [] (.drop .tooShort) = true := by decide +kernel
/-- V-9: address 0 is an ordinary address. -/
theorem test_validator_address_zero :
    gives (s0 0x00) [0x00, 0x03, 0x00, 0x00, 0x00, 0x01, 0x85, 0xDB] [0x00, 0x03, 0x02, 0x00, 0x00, 0x85, 0x84] .normal = true := by
  decide +kernel

/-! ### Transactions: at most two per instruction -/

/-- RD-9, on the coils its setup request leaves. -/
theorem test_rdo_packs :
    gives (s0With [true, true, false, false, true, true, false, true, false, true] [])
      [0x01, 0x01, 0x00, 0x00, 0x00, 0x0A, 0xBC, 0x0D] [0x01, 0x01, 0x02, 0xCD, 0x40, 0xEC, 0x9C] .normal = true := by
  decide +kernel
/-- RD-8: OFF + N does not wrap. -/
theorem test_rdo_no_wrap :
    gives (s0 0x01) [0x01, 0x01, 0xFF, 0xFF, 0x00, 0x02, 0xBD, 0xEF] [0x01, 0x81, 0x02, 0xC1, 0x91]
      (.exception .illegalDataAddress) = true := by
  decide +kernel
/-- RI-2. -/
theorem test_rdi_reads :
    gives (s0 0x01) [0x01, 0x02, 0x00, 0x03, 0x00, 0x09, 0x48, 0x0C] [0x01, 0x02, 0x02, 0x55, 0x00, 0x86, 0xE8] .normal = true := by
  decide +kernel
/-- RI-3's frame with the range check off: the first 20 bits are DI (RI-1: AA AA 8_), the 21st is a draw, the rest is padding
(R143). -/
theorem test_rdi_gap :
    leaves s0Gap [0x01, 0x02, 0x00, 0x00, 0x00, 0x15, 0xB9, 0xC5]
      (fun t => decide (t.rsp.take 5 = [0x01, 0x02, 0x03, 0xAA, 0xAA]) && decide (t.rsp.length = 8) &&
        decide (5 + 1 ≤ t.draws)) = true := by
  decide +kernel
/-- RH-6, on the registers its setup requests leave. -/
theorem test_rhr_reads :
    gives (s0With [] [0x1234, 0xABCD]) [0x01, 0x03, 0x00, 0x00, 0x00, 0x03, 0x05, 0xCB]
      [0x01, 0x03, 0x06, 0x12, 0x34, 0xAB, 0xCD, 0x00, 0x00, 0x22, 0x18] .normal = true := by
  decide +kernel
/-- RH-4: N = 0 beyond the bank. -/
theorem test_rhr_range :
    gives (s0 0x01) [0x01, 0x03, 0x00, 0x0B, 0x00, 0x00, 0x34, 0x08] [0x01, 0x83, 0x02, 0xC0, 0xF1]
      (.exception .illegalDataAddress) = true := by
  decide +kernel
/-- RR-10: the 8-byte form whose checksum low byte equals 2N. -/
theorem test_rir_raw_byte_count :
    gives (s0 0x10) [0x10, 0x04, 0x00, 0x0F, 0x00, 0x01, 0x02, 0x88] [0x10, 0x04, 0x02, 0x10, 0x10, 0x49, 0x3F] .normal = true := by
  decide +kernel
/-- RR-9: the count check comes before the range check. -/
theorem test_rir_count_first :
    gives (s0 0x01) [0x01, 0x04, 0x00, 0x32, 0x00, 0x00, 0x00, 0x04, 0xFC] [0x01, 0x84, 0x03, 0x03, 0x01]
      (.exception .illegalDataValue) = true := by
  decide +kernel
/-- WC-5 with its bank change. -/
theorem test_wdo_last_coil :
    leaves (s0 0x01) [0x01, 0x05, 0x00, 0x13, 0xFF, 0x00, 0x7D, 0xFF]
      (fun t => decide (t.rsp = [0x01, 0x05, 0x00, 0x13, 0xFF, 0x00, 0x7D, 0xFF]) &&
        decide (t.DO = bankOf capDO (fun k => k == 20))) = true := by
  decide +kernel
/-- WC-7: the value check comes before the range check. -/
theorem test_wdo_value_first :
    gives (s0 0x01) [0x01, 0x05, 0x00, 0x14, 0x00, 0x01, 0x4C, 0x0E] [0x01, 0x85, 0x03, 0x02, 0x91]
      (.exception .illegalDataValue) = true := by
  decide +kernel
/-- WH-1 with its bank change. -/
theorem test_whr_writes :
    leaves (s0 0x01) [0x01, 0x06, 0x00, 0x03, 0x00, 0xAB, 0x38, 0x75]
      (fun t => decide (t.rsp = [0x01, 0x06, 0x00, 0x03, 0x00, 0xAB, 0x38, 0x75]) &&
        decide (t.HR = bankOf capHR (fun k => if k = 4 then 0x00AB else 0))) = true := by
  decide +kernel
/-- WH-4: the offset is a big-endian pair (conflict C5). -/
theorem test_whr_offset_pair :
    gives (s0 0x01) [0x01, 0x06, 0x01, 0x03, 0x00, 0x01, 0xB9, 0xF6] [0x01, 0x86, 0x02, 0xC3, 0xA1]
      (.exception .illegalDataAddress) = true := by
  decide +kernel
/-- WM-2 with its bank changes, on the coils its setup request leaves. -/
theorem test_wdon_overwrites :
    leaves (s0With [true, true, false, false, true, true, false, true, false, true] [])
      [0x01, 0x0F, 0x00, 0x02, 0x00, 0x05, 0x01, 0xA8, 0x17, 0x28]
      (fun t => decide (t.rsp = [0x01, 0x0F, 0x00, 0x02, 0x00, 0x05, 0x34, 0x08]) &&
        decide (t.DO = bankOf capDO (fun k => [1, 2, 3, 5, 7, 8, 10].contains k))) = true := by
  decide +kernel
/-- WM-4: one data byte short, so nothing is written. -/
theorem test_wdon_short :
    leaves (s0 0x01) [0x01, 0x0F, 0x00, 0x00, 0x00, 0x0A, 0x02, 0xCD, 0x9E, 0x30]
      (fun t => decide (t.rsp = []) && decide (t.outcome = some (.drop .short)) &&
        decide (t.DO = bankOf capDO (fun _ => false))) = true := by
  decide +kernel
/-- WR-6 with its bank changes. -/
theorem test_whrn_writes :
    leaves (s0 0x01) [0x01, 0x10, 0x00, 0x08, 0x00, 0x02, 0x04, 0x00, 0x01, 0x00, 0x02, 0x22, 0x08]
      (fun t => decide (t.rsp = [0x01, 0x10, 0x00, 0x08, 0x00, 0x02, 0xC0, 0x0A]) &&
        decide (t.HR = bankOf capHR (fun k => if k = 9 then 1 else if k = 10 then 2 else 0))) = true := by
  decide +kernel
/-- WR-9: out of range and short: the range check comes first. -/
theorem test_whrn_range_first :
    gives (s0 0x01) [0x01, 0x10, 0x00, 0x09, 0x00, 0x02, 0x04, 0x00, 0x01, 0x87, 0x4C] [0x01, 0x90, 0x02, 0xCD, 0xC1]
      (.exception .illegalDataAddress) = true := by
  decide +kernel
/-- D-3: a code with bit 7 set is echoed unchanged. -/
theorem test_illegal_bit_seven :
    gives (s0 0x01) [0x01, 0x81, 0xC0, 0x40] [0x01, 0x81, 0x01, 0x81, 0x90] (.exception .illegalFunction) = true := by
  decide +kernel
/-- D-4. -/
theorem test_illegal_with_payload :
    gives (s0 0x01) [0x01, 0x2B, 0x0E, 0x01, 0x00, 0x70, 0x77] [0x01, 0xAB, 0x01, 0x9E, 0xF0] (.exception .illegalFunction)
      = true := by
  decide +kernel

/-! ### Counters, reset, the host's events -/

/-- RR-11 and the counters after it (R212). -/
theorem test_counters_read_before_counted :
    leaves (s0 0x01) [0x01, 0x04, 0x00, 0x11, 0x00, 0x03, 0x06, 0x8F, 0x8A]
      (fun t => decide (t.rsp = [0x01, 0x04, 0x06, 0x00, 0x00, 0x00, 0x00, 0x00, 0x00, 0x60, 0x93]) &&
        decide (bankGet t.IR 18 = some 1) && decide (bankGet t.IR 19 = some 9) && decide (bankGet t.IR 20 = some 11)) = true := by
  decide +kernel
/-- R231's example under LSB, and XOR_ALL on a word with two and with three 1 bits. -/
theorem test_parity :
    (s0 0x01).DI = bankOf capDI (fun k => decide (k % 2 = 1 ∧ k ≤ 17)) ∧
    parity .xorAll 0x8001 = false ∧ parity .xorAll 0x8003 = true := by
  decide +kernel
/-- R235: the host's broken duties. -/
theorem test_host_duties :
    refusedBy (step { s0 0x01 with host := [.request [0x01]], phase := .count }) .requestWhileBusy = true ∧
    refusedBy (step { s0 0x01 with host := [.request (List.replicate 257 0)] }) .requestTooLong = true ∧
    refusedBy (step { s0 0x01 with host := [.reset 1 p0], phase := .count }) .resetWhileBusy = true := by
  decide +kernel
/-- R129: taking a response, with and without one. -/
theorem test_taken :
    nextIs (step { s0 0x01 with host := [.taken], phase := .count, rspValid := true }) (fun t => t.reqReady && !t.rspValid) = true ∧
    refusedBy (step { s0 0x01 with host := [.taken] }) .nothingToTake = true := by
  decide +kernel
/-- Parameters that break R11 or R12 construct nothing. -/
theorem test_illegal_parameters :
    refusedBy (step { s0 0x01 with host := [.reset 1 { p0 with maxFrameLen := 44 }] }) .illegalParameters = true ∧
    refusedBy (step { s0 0x01 with host := [.reset 1 { p0 with idxRxBytes := 18 }] }) .illegalParameters = true := by
  decide +kernel
/-- Each row of the table runs as the first instruction after reset. -/
theorem test_fetch_words :
    [0x01, 0x02, 0x03, 0x04, 0x05, 0x06, 0x0F, 0x10, 0x00].all
      (fun w => nextIs (step (State.reset.withFetchWord 8 w)) (fun t => decide (t.rsp.getD 1 0 &&& 0x7F = BitVec.ofNat 8 w)))
      = true := by
  decide +kernel

/-! ### Witnesses: the hypotheses of each statement, met together by a concrete state and concrete operands

One theorem per statement that has hypotheses, named after it; one conjunct per clause, at a boundary of its range. -/

/-- 01 03 00 00 00 0A: RH-1, a whole bank. -/
def fRead : List Byte := [0x01, 0x03, 0x00, 0x00, 0x00, 0x0A, 0xC5, 0xCD]
/-- D-1, an illegal code in the shortest frame. -/
def fIllegal : List Byte := [0x01, 0x07, 0x41, 0xE2]
/-- WC-5. -/
def fWrite : List Byte := [0x01, 0x05, 0x00, 0x13, 0xFF, 0x00, 0x7D, 0xFF]
/-- RR-11. -/
def fCounters : List Byte := [0x01, 0x04, 0x00, 0x11, 0x00, 0x03, 0x06, 0x8F, 0x8A]
/-- D-7, one byte short of a header. -/
def fShort : List Byte := [0x01, 0x03, 0x00, 0x00, 0x00, 0x19, 0x84]
/-- R123's second example, function 16 one byte short of its byte count. -/
def fShort16 : List Byte := [0x01, 0x10, 0x00, 0x00, 0x00, 0x02, 0x41, 0xC8]
/-- WM-4, one data byte short. -/
def fShortData : List Byte := [0x01, 0x0F, 0x00, 0x00, 0x00, 0x0A, 0x02, 0xCD, 0x9E, 0x30]
/-- V-3, a wrong trailer. -/
def fCorrupt : List Byte := [0x01, 0x03, 0x00, 0x00, 0x00, 0x01, 0x84, 0x0B]
/-- RI-3, function 02 one element past its bank. -/
def fGap : List Byte := [0x01, 0x02, 0x00, 0x00, 0x00, 0x15, 0xB9, 0xC5]

/-- Function 02 for 2009 elements: 252 data bytes, one more than a buffer of 256 bytes holds (R143). -/
def fOversize : List Byte := [0x01, 0x02, 0x00, 0x00, 0x07, 0xD9, 0xBB, 0xA0]

/-- S0 with `f` as the host's next event. -/
def at0 (f : List Byte) : State := (s0 0x01).offer f

theorem at0_offered {f : List Byte} (h : f.length ≤ 256) : (at0 f).Offered f := ⟨rfl, rfl, h⟩

theorem at0_offeredValid {f : List Byte} (h : f.length ≤ 256) (hv : validate 0x01 f = none) : (at0 f).OfferedValid f :=
  ⟨at0_offered h, hv⟩

theorem at0_inv (f : List Byte) : (at0 f).Inv where
  params := (by decide +kernel : p0.ok = true)
  handshake := .inl ⟨rfl, rfl⟩
  sealed := nofun
  silent := nofun
  fits := Nat.zero_le _
  longest := nofun

theorem witness_CrcResidueDecides :
    (∃ (m : List Byte) (a b : Byte), crcOver (m ++ [a, b]) = 0) ∧
    (∃ (addr : Byte) (f : List Byte), 4 ≤ f.length ∧ f.getD 0 0 = addr) :=
  ⟨⟨[], 0xFF, 0xFF, by decide +kernel⟩, 0x01, fIllegal, by decide⟩

theorem witness_SealThenValidate :
    (∃ (addr : Byte) (b : List Byte), 2 ≤ b.length ∧ b.getD 0 0 = addr) ∧
    (∃ (s : State) (f : List Byte), s.Offered f ∧ ∃ t, step s = .next t ∧ decide (t.rsp ≠ []) = true) :=
  ⟨⟨0x01, [0x01, 0x07], by decide⟩, at0 fIllegal, fIllegal, at0_offered (by decide), exists_next (by decide +kernel)⟩

theorem witness_SealerOverwritesReservedSlots :
    (∃ s : State, s.rsp = []) ∧ (∃ (s : State) (body : List Byte) (r0 r1 : Byte), s.rsp = body ++ [r0, r1]) :=
  ⟨⟨s0 0x01, rfl⟩, { s0 0x01 with rsp := [0x01, 0x87, 0x01, 0xAA, 0x55] }, [0x01, 0x87, 0x01], 0xAA, 0x55, rfl⟩

theorem witness_DecodeEncodeRoundTrip :
    (Instr.illegal 0x11).wellFormed = true ∧ (Instr.wdon 0xFFFF 0 none []).wellFormed = true ∧
    (Instr.wdon 0 20 (some 3) [1, 2, 3]).wellFormed = true := by decide

theorem witness_HeaderParse :
    (∃ (f : List Byte) (c : FunctionCode), FunctionCode.ofByte (f.getD 1 0) = some c ∧ 4 ≤ f.length ∧ f.length < 8) ∧
    (∃ (f : List Byte) (c : FunctionCode), FunctionCode.ofByte (f.getD 1 0) = some c ∧ 8 ≤ f.length ∧
      (c = .whrn → 9 ≤ f.length)) ∧
    (∃ f : List Byte, FunctionCode.ofByte (f.getD 1 0) = some .whrn ∧ 9 ≤ f.length) ∧
    (∃ f : List Byte, f.getD 1 0 = 0x10 ∧ 4 ≤ f.length ∧ f.length < 9 ∧ f.length = 8) ∧
    (∃ (s : State) (f : List Byte), s.OfferedValid f ∧ illegalCode (byteAt f 1) = false ∧ f.length < 8) ∧
    (∃ (s : State) (f : List Byte), s.OfferedValid f ∧ illegalCode (byteAt f 1) = false ∧ byteAt f 1 = 0x10 ∧ f.length = 8) :=
  ⟨⟨fShort, .rhr, by decide⟩, ⟨fRead, .rhr, by decide⟩,
    ⟨[0x01, 0x10, 0x00, 0x00, 0x00, 0x00, 0x00, 0x09, 0x50], by decide⟩, ⟨fShort16, by decide⟩,
    ⟨at0 fShort, fShort, at0_offeredValid (by decide) (by decide +kernel), by decide, by decide⟩,
    at0 fShort16, fShort16, at0_offeredValid (by decide) (by decide +kernel), by decide, by decide⟩

theorem witness_IllegalCodesAreTheOther248 :
    (∃ f : List Byte, 4 ≤ f.length ∧ illegalCode (byteAt f 1) = true) ∧
    (∃ f : List Byte, 4 ≤ f.length ∧ illegalCode (byteAt f 1) = false) ∧ (0x80 : Byte).getLsbD 7 = true :=
  ⟨⟨fIllegal, by decide⟩, ⟨fRead, by decide⟩, by decide⟩

theorem witness_ReadInputsByteCountIsRaw :
    (∃ f : List Byte, 8 ≤ f.length ∧ f.getD 1 0 = 0x04 ∧ f.length = 8) ∧
    (∃ f : List Byte, 8 ≤ f.length ∧ f.getD 1 0 = 0x04 ∧ f.length = 9) :=
  ⟨⟨[0x10, 0x04, 0x00, 0x0F, 0x00, 0x01, 0x02, 0x88], by decide⟩, fCounters, by decide⟩

theorem witness_ExtraPayloadIgnored :
    (∃ i : Instr, i.wellFormed = true ∧ (∀ off n bc data, i ≠ .wdon off n bc data) ∧
      (∀ off n bc data, i ≠ .whrn off n bc data)) ∧
    (∃ (n : Word) (data : List Byte), packedLen n.toNat ≤ data.length) ∧
    (∃ (n : Word) (data : List Byte), 2 * n.toNat ≤ data.length) :=
  ⟨⟨.rir 0 1 2, by decide, nofun, nofun⟩, ⟨9, [0xFF, 0x80], by decide⟩, 1, [0, 1], by decide⟩

theorem witness_PackLayout :
    (∃ c off n : Nat, off + n ≤ c ∧ c = 20 ∧ n = 20) ∧ (∃ c off n : Nat, off + n ≤ c ∧ off = c ∧ n = 0) :=
  ⟨⟨20, 0, 20, by decide⟩, 20, 20, 0, by decide⟩

theorem witness_UnpackReadsExactlyItsBits :
    (∃ (n : Nat) (data : List Byte), packedLen n ≤ data.length ∧ n = 8) ∧
    (∃ (n : Nat) (data : List Byte), data.length < packedLen n ∧ n = 9) ∧
    (∃ (off n : Word) (data : List Byte), off.toNat + n.toNat ≤ 20 ∧ data.length < packedLen n.toNat) ∧
    (∃ f : List Byte, 8 ≤ f.length ∧ f.getD 1 0 = 0x0F) ∧
    (∃ (n : Nat) (d1 d2 : List Byte), (∀ j, j < n → packedBit d1 j = packedBit d2 j) ∧ d1 ≠ d2) :=
  ⟨⟨8, [0xFF], by decide⟩, ⟨9, [0xFF], by decide⟩, ⟨11, 9, [0xFF], by decide⟩, ⟨fShortData, by decide⟩,
    1, [0x80], [0xFF], by decide⟩

theorem witness_RdoReadsCoils :
    (∃ off n : Word, off.toNat + n.toNat ≤ 20 ∧ n = 20) ∧ (∃ off n : Word, off.toNat + n.toNat ≤ 20 ∧ off = 20) :=
  ⟨⟨0, 20, by decide⟩, 20, 0, by decide⟩

theorem witness_RdiReadsInputs :
    ∃ (off n : Word) (s : State), s.cfg.fn02RangeCheck = true ∧ off.toNat + n.toNat ≤ 20 :=
  ⟨16, 4, s0 0x01, by decide +kernel⟩

theorem witness_RdiGapDraws :
    ∃ (off n : Word) (s : State), s.cfg.fn02RangeCheck = false ∧ packedLen n.toNat ≤ 255 ∧
      5 + packedLen n.toNat ≤ s.cfg.maxFrameLen ∧ 20 < off.toNat + n.toNat :=
  ⟨0, 2008, s0Gap, by decide +kernel⟩

theorem witness_RdiGapOversizeRefused :
    (∃ (n : Word) (s : State), s.cfg.fn02RangeCheck = false ∧ 255 < packedLen n.toNat) ∧
    (∃ (n : Word) (s : State), s.cfg.fn02RangeCheck = false ∧ s.cfg.maxFrameLen < 5 + packedLen n.toNat) ∧
    (∃ (n : Word) (s : State), s.cfg.fn02RangeCheck = false ∧ ¬ s.cfg.maxFrameLen < 5 + packedLen n.toNat) :=
  ⟨⟨2041, s0Gap, by decide +kernel⟩, ⟨2009, s0Gap, by decide +kernel⟩, 2008, s0Gap, by decide +kernel⟩

theorem witness_RhrReadsHoldings :
    (∃ off n : Word, off.toNat + n.toNat ≤ 10 ∧ n = 10) ∧ (∃ off n : Word, off.toNat + n.toNat ≤ 10 ∧ off = 10) :=
  ⟨⟨0, 10, by decide⟩, 10, 0, by decide⟩

theorem witness_RirReadsInputRegisters :
    (∃ (off n : Word) (bc : Byte), 1 ≤ n.toNat ∧ bc.toNat = 2 * n.toNat ∧ off.toNat + n.toNat ≤ 20 ∧ n = 20) ∧
    (∃ (off n : Word) (bc : Byte), 1 ≤ n.toNat ∧ bc.toNat = 2 * n.toNat ∧ off.toNat + n.toNat ≤ 20 ∧ off = 19) :=
  ⟨⟨0, 20, 40, by decide⟩, 19, 1, 2, by decide⟩

theorem witness_WdoWritesOneCoil :
    (∃ off v : Word, (v = 0xFF00 ∨ v = 0x0000) ∧ off.toNat + 1 ≤ 20 ∧ v = 0xFF00) ∧
    (∃ off v : Word, (v = 0xFF00 ∨ v = 0x0000) ∧ off.toNat + 1 ≤ 20 ∧ v = 0x0000) :=
  ⟨⟨19, 0xFF00, by decide⟩, 19, 0x0000, by decide⟩

theorem witness_WhrWritesOneRegister : ∃ off : Word, off.toNat + 1 ≤ 10 ∧ off = 9 := ⟨9, by decide⟩

theorem witness_WdonWritesCoils :
    (∃ (off n : Word) (data : List Byte), off.toNat + n.toNat ≤ 20 ∧ packedLen n.toNat ≤ data.length ∧ n = 20) ∧
    (∃ (off n : Word) (data : List Byte), off.toNat + n.toNat ≤ 20 ∧ packedLen n.toNat ≤ data.length ∧ n = 0) :=
  ⟨⟨0, 20, [0xA5, 0x5A, 0xF0], by decide⟩, 20, 0, [], by decide⟩

theorem witness_WhrnWritesRegisters :
    ∃ (off n : Word) (bc : Byte) (data : List Byte), 1 ≤ n.toNat ∧ bc.toNat = 2 * n.toNat ∧ off.toNat + n.toNat ≤ 10 ∧
      2 * n.toNat ≤ data.length :=
  ⟨8, 2, 4, [0, 1, 0, 2], by decide⟩

theorem witness_IllegalRaisesIllegalFunction : (0x81 : Byte).getLsbD 7 = true := by decide

theorem witness_RangeErrorsRaiseDataAddress :
    (∃ off n : Word, 20 < off.toNat + n.toNat ∧ off = 0xFFFF) ∧
    (∃ (off n : Word) (s : State), s.cfg.fn02RangeCheck = true ∧ 20 < off.toNat + n.toNat) ∧
    (∃ off n : Word, 10 < off.toNat + n.toNat ∧ n = 0) ∧
    (∃ (off n : Word) (bc : Byte), 1 ≤ n.toNat ∧ n.toNat ≤ 0x7B ∧ bc.toNat = 2 * n.toNat ∧ 20 < off.toNat + n.toNat) ∧
    (∃ off v : Word, (v = 0xFF00 ∨ v = 0x0000) ∧ 20 < off.toNat + 1) ∧
    (∃ off : Word, 10 < off.toNat + 1) ∧
    (∃ (off n : Word) (bc : Byte), 1 ≤ n.toNat ∧ n.toNat ≤ 0x7B ∧ bc.toNat = 2 * n.toNat ∧ 10 < off.toNat + n.toNat) :=
  ⟨⟨0xFFFF, 2, by decide⟩, ⟨0, 21, s0 0x01, by decide +kernel⟩, ⟨11, 0, by decide⟩, ⟨0, 0x7B, 0xF6, by decide⟩,
    ⟨20, 0, by decide⟩, ⟨10, by decide⟩, 9, 2, 4, by decide⟩

theorem witness_ValueErrorsRaiseDataValue :
    (∃ v : Word, v ≠ 0xFF00 ∧ v ≠ 0x0000) ∧
    (∃ (n : Word) (bc : Byte), n.toNat = 0 ∨ 0x7B < n.toNat ∨ bc.toNat ≠ 2 * n.toNat) ∧
    (0x7B < (0x7C : Word).toNat ∧ (3 : Byte).toNat ≠ 2 * (2 : Word).toNat) :=
  ⟨⟨0x00FF, by decide⟩, ⟨0, 0, by decide⟩, by decide⟩

theorem witness_ShortDataIsDropped :
    (∃ (off n : Word) (data : List Byte), off.toNat + n.toNat ≤ 20 ∧ data.length < packedLen n.toNat) ∧
    (∃ (off n : Word) (bc : Byte) (data : List Byte), 1 ≤ n.toNat ∧ n.toNat ≤ 0x7B ∧ bc.toNat = 2 * n.toNat ∧
      off.toNat + n.toNat ≤ 10 ∧ data.length < 2 * n.toNat) :=
  ⟨⟨0, 10, [0xCD], by decide⟩, 0, 2, 4, [0, 1, 0], by decide⟩

theorem witness_HandlerEndsOneWay :
    (∃ t, exec (.rdo 0 20) (s0 0x01) = .next t ∧ decide (t.outcome = some .normal) = true) ∧
    (∃ t, exec (.illegal 7) (s0 0x01) = .next t ∧ decide (t.outcome = some (.exception .illegalFunction)) = true) ∧
    (∃ t, exec (.wdon 0 10 (some 2) [0xCD]) (s0 0x01) = .next t ∧ decide (t.outcome = some (.drop .short)) = true) :=
  ⟨exists_next (by decide +kernel), exists_next (by decide +kernel), exists_next (by decide +kernel)⟩

theorem witness_ResponseFitsBuffer :
    (∃ s : State, s.cfg.ok = true ∧ nextIs (exec (.rir 0 20 40) s) (fun t => decide (t.rsp.length = 45)) = true) ∧
    (∃ s : State, s.cfg.ok = true ∧ s.rsp.length ≤ s.cfg.maxFrameLen ∧ nextIs (step s) (fun _ => true) = true ∧
      s.host = [.taken]) :=
  ⟨⟨s0 0x01, by decide +kernel, by decide +kernel⟩,
    { s0 0x01 with host := [.taken], phase := .count, rspValid := true }, by decide +kernel, Nat.zero_le _, by decide +kernel, rfl⟩

theorem witness_WritesAreAllOrNothing :
    ∃ t, exec (.whrn 9 2 4 [0, 1, 0, 2]) (s0 0x01) = .next t ∧ decide (t.outcome ≠ some .normal) = true :=
  exists_next (by decide +kernel)

theorem witness_CoilsReadBack :
    (∃ t, exec (.wdon 0 10 none [0xCD, 0x40]) (s0 0x01) = .next t ∧
      (decide (t.outcome = some .normal) && nextIs (exec (.rdo 0 10) t) (fun _ => true)) = true) ∧
    (∃ t, exec (.wdo 19 0xFF00) (s0 0x01) = .next t ∧
      (decide (t.outcome = some .normal) && nextIs (exec (.rdo 19 1) t) (fun _ => true)) = true) :=
  ⟨exists_next (p := fun t => decide (t.outcome = some .normal) && nextIs (exec (.rdo 0 10) t) (fun _ => true)) (by decide +kernel),
    exists_next (p := fun t => decide (t.outcome = some .normal) && nextIs (exec (.rdo 19 1) t) (fun _ => true)) (by decide +kernel)⟩

theorem witness_RegistersReadBack :
    (∃ t, exec (.whrn 8 2 4 [0, 1, 0, 2]) (s0 0x01) = .next t ∧
      (decide (t.outcome = some .normal) && nextIs (exec (.rhr 8 2) t) (fun _ => true)) = true) ∧
    (∃ t, exec (.whr 9 0xFFFF) (s0 0x01) = .next t ∧
      (decide (t.outcome = some .normal) && nextIs (exec (.rhr 9 1) t) (fun _ => true)) = true) :=
  ⟨exists_next (p := fun t => decide (t.outcome = some .normal) && nextIs (exec (.rhr 8 2) t) (fun _ => true)) (by decide +kernel),
    exists_next (p := fun t => decide (t.outcome = some .normal) && nextIs (exec (.rhr 9 1) t) (fun _ => true)) (by decide +kernel)⟩

theorem witness_StepRunsDecodedInstruction :
    ∃ (s : State) (f : List Byte) (rest : List HostEvent) (i : Instr),
      s.host = .request f :: rest ∧ s.phase = .idle ∧ f.length ≤ s.cfg.maxFrameLen ∧ validate s.slaveAddr f = none ∧
      decode f = .ok i :=
  ⟨at0 fRead, fRead, [], .rhr 0 10, rfl, rfl, by decide, by decide +kernel, by decide⟩

theorem witness_EncodedRequestRuns :
    ∃ (s : State) (rest : List HostEvent) (i : Instr), i.wellFormed = true ∧
      s.host = .request (encode s.slaveAddr i) :: rest ∧ s.phase = .idle ∧
      (encode s.slaveAddr i).length ≤ s.cfg.maxFrameLen :=
  ⟨at0 (encode 0x01 (.wdo 19 0xFF00)), [], .wdo 19 0xFF00, by decide, rfl, rfl, by decide +kernel⟩

/-- A normal read and three drops of the default instance, and the instance without the range check: another function, a
function 02 read beyond DI, and one too long to answer. -/
theorem witness_OutcomeFollowsPriority :
    (∃ (s : State) (f : List Byte), s.Offered f ∧ ¬ s.OversizeGapRead f ∧ s.expectedOutcome f = .normal) ∧
    (∃ (s : State) (f : List Byte), s.Offered f ∧ ¬ s.OversizeGapRead f ∧ s.expectedOutcome f = .drop .crcMismatch) ∧
    (∃ (s : State) (f : List Byte), s.Offered f ∧ ¬ s.OversizeGapRead f ∧ byteAt f 1 = 0x10 ∧
      s.expectedOutcome f = .drop .short) ∧
    (∃ (s : State) (f : List Byte), s.Offered f ∧ ¬ s.OversizeGapRead f ∧ byteAt f 1 = 0x0F ∧
      s.expectedOutcome f = .drop .short) ∧
    (∃ (s : State) (f : List Byte), s.Offered f ∧ ¬ s.OversizeGapRead f ∧ s.cfg.fn02RangeCheck = false ∧ byteAt f 1 = 0x03) ∧
    (∃ (s : State) (f : List Byte), s.Offered f ∧ ¬ s.OversizeGapRead f ∧ s.cfg.fn02RangeCheck = false ∧
      byteAt f 1 = 0x02 ∧ 20 < offOf f + qOf f ∧ s.expectedOutcome f = .normal) ∧
    (∃ (s : State) (f : List Byte), s.Offered f ∧ s.OversizeGapRead f) :=
  ⟨⟨at0 fRead, fRead, at0_offered (by decide), fun h => absurd h.2.1 (by decide), by decide +kernel⟩,
    ⟨at0 fCorrupt, fCorrupt, at0_offered (by decide), fun h => absurd h.2.1 (by decide), by decide +kernel⟩,
    ⟨at0 fShort16, fShort16, at0_offered (by decide), fun h => absurd h.2.1 (by decide), by decide, by decide +kernel⟩,
    ⟨at0 fShortData, fShortData, at0_offered (by decide), fun h => absurd h.2.1 (by decide), by decide, by decide +kernel⟩,
    ⟨s0Gap.offer fRead, fRead, ⟨rfl, rfl, by decide⟩, fun h => absurd h.2.1 (by decide), by decide +kernel, by decide⟩,
    ⟨s0Gap.offer fGap, fGap, ⟨rfl, rfl, by decide⟩, fun h => absurd h.2.2.2 (by decide +kernel), by decide +kernel, by decide,
      by decide, by decide +kernel⟩,
    s0Gap.offer fOversize, fOversize, ⟨rfl, rfl, by decide⟩, by decide +kernel, by decide, by decide +kernel, by decide +kernel⟩

theorem witness_EveryRequestCompletes :
    (∃ (s : State) (f : List Byte), s.Offered f) ∧
    (∃ (s : State) (f : List Byte), s.Offered f ∧ s.cfg.fn02RangeCheck = false) :=
  ⟨⟨at0 [], [], at0_offered (by decide)⟩, s0Gap.offer fGap, fGap, ⟨rfl, rfl, by decide⟩, by decide +kernel⟩

theorem witness_TooShortIsDropped :
    ∃ (s : State) (f : List Byte), s.Offered f ∧ f.length < 4 ∧ f.length = 3 :=
  ⟨at0 [0x01, 0x7E, 0x80], [0x01, 0x7E, 0x80], at0_offered (by decide), by decide⟩

theorem witness_ValidationFailureIsSilent :
    ∃ (s : State) (f : List Byte) (r : DropReason), s.Offered f ∧ s.cfg.ok = true ∧ validate s.slaveAddr f = some r :=
  ⟨at0 fCorrupt, fCorrupt, .crcMismatch, at0_offered (by decide), by decide +kernel, by decide +kernel⟩

theorem witness_IllegalFunctionTransaction :
    ∃ (s : State) (f : List Byte), s.OfferedValid f ∧ s.cfg.ok = true ∧ illegalCode (byteAt f 1) = true :=
  ⟨at0 fIllegal, fIllegal, at0_offeredValid (by decide) (by decide +kernel), by decide +kernel, by decide⟩

theorem witness_ExceptionResponseShape :
    (∃ (s : State) (f : List Byte), s.Offered f ∧
      ∃ t, step s = .next t ∧ decide (t.outcome = some (.exception .illegalFunction)) = true) ∧
    (∃ (s : State) (f : List Byte), s.Offered f ∧ ∃ t, step s = .next t ∧ decide (t.outcome = some .normal) = true) :=
  ⟨⟨at0 fIllegal, fIllegal, at0_offered (by decide), exists_next (by decide +kernel)⟩,
    at0 fRead, fRead, at0_offered (by decide), exists_next (by decide +kernel)⟩

theorem witness_ExceptionsArePrecise :
    ∃ (s : State) (f : List Byte), s.Offered f ∧ s.cfg.ok = true ∧
      ∃ t, step s = .next t ∧ decide (t.outcome = some (.exception .illegalFunction)) = true :=
  ⟨at0 fIllegal, fIllegal, at0_offered (by decide), by decide +kernel, exists_next (by decide +kernel)⟩

theorem witness_ResponseLengths :
    (∃ t, step (at0 fShortData) = .next t ∧ decide (t.outcome = some (.drop .short)) = true) ∧
    (∃ t, step (at0 fIllegal) = .next t ∧ decide (t.outcome = some (.exception .illegalFunction)) = true) ∧
    (∃ t, step (at0 fRead) = .next t ∧ decide (t.outcome = some .normal) = true) ∧
    (∃ t, step (at0 fCounters) = .next t ∧ decide (t.outcome = some .normal) = true) ∧
    (∃ t, step (at0 fWrite) = .next t ∧ decide (t.outcome = some .normal) = true) :=
  ⟨exists_next (by decide +kernel), exists_next (by decide +kernel), exists_next (by decide +kernel),
    exists_next (by decide +kernel), exists_next (by decide +kernel)⟩

theorem witness_EchoCopiesTheHeader :
    ∃ (s : State) (f : List Byte), s.OfferedValid f ∧ byteAt f 1 ∈ [0x05, 0x06, 0x0F, 0x10] ∧
      ∃ t, step s = .next t ∧ decide (t.outcome = some .normal) = true :=
  ⟨at0 fWrite, fWrite, at0_offeredValid (by decide) (by decide +kernel), by decide, exists_next (by decide +kernel)⟩

theorem witness_EveryTransactionIsCounted :
    ∃ (s : State) (f : List Byte), s.cfg.ok = true ∧ s.Offered f ∧ ∃ t, step s = .next t ∧ decide (t.rsp = []) = true :=
  ⟨at0 fCorrupt, fCorrupt, by decide +kernel, at0_offered (by decide), exists_next (by decide +kernel)⟩

theorem witness_CounterSelfRead :
    ∃ (s : State) (f : List Byte), s.OfferedValid f ∧ s.cfg.ok = true ∧ byteAt f 1 = 0x04 ∧
      ∃ t, step s = .next t ∧ decide (t.outcome = some .normal) = true :=
  ⟨at0 fCounters, fCounters, at0_offeredValid (by decide) (by decide +kernel), by decide +kernel, by decide,
    exists_next (by decide +kernel)⟩

/-- Two states with the same banks that differ in all else a request could have left behind. -/
theorem witness_TransactionDependsOnlyOnBanks :
    ∃ (s1 s2 : State) (f : List Byte), s1.Offered f ∧ s2.Offered f ∧ s1.DO = s2.DO ∧ s1.DI = s2.DI ∧ s1.HR = s2.HR ∧
      s1.IR = s2.IR ∧ s1.slaveAddr = s2.slaveAddr ∧ s1.cfg = s2.cfg ∧
      (s1.cfg.fn02RangeCheck = true ∨ byteAt f 1 ≠ 0x02 ∨ offOf f + qOf f ≤ 20 ∨ s1.draws = s2.draws) ∧ s1 ≠ s2 ∧
      nextIs (step s1) (fun _ => true) = true ∧ nextIs (step s2) (fun _ => true) = true :=
  ⟨at0 fRead, { at0 fRead with crc := 0x1234, rsp := [0xAA], draws := 7, outcome := some .normal }, fRead,
    at0_offered (by decide), ⟨rfl, rfl, by decide⟩, rfl, rfl, rfl, rfl, rfl, rfl, .inr (.inl (by decide)),
    fun h => absurd (congrArg State.draws h) (by decide), by decide +kernel, by decide +kernel⟩

theorem witness_StepKeepsInvariant : ∃ s : State, s.Inv ∧ nextIs (step s) (fun t => t.rspValid) = true :=
  ⟨at0 fWrite, at0_inv _, by decide +kernel⟩

theorem witness_ResetHasInvariant : p0.ok = true := by decide +kernel

theorem witness_InputsAndConfigurationAreReadOnly :
    ∃ s : State, nextIs (step s) (fun _ => true) = true ∧ (∀ a p, s.host.head? ≠ some (.reset a p)) ∧
      s.cfg.isCounterSlot 17 = false :=
  ⟨at0 fCounters, by decide +kernel, nofun, by decide +kernel⟩

theorem witness_OnlyWriteFunctionsChangeOutputs :
    (∃ (s : State) (e : HostEvent), s.host.head? = some e ∧ (∀ a p, e ≠ .reset a p) ∧
      nextIs (step s) (fun t => decide (t.DO ≠ s.DO)) = true) ∧
    (∃ (s : State) (e : HostEvent), s.host.head? = some e ∧ (∀ a p, e ≠ .reset a p) ∧
      nextIs (step s) (fun t => decide (t.HR ≠ s.HR)) = true) :=
  ⟨⟨at0 fWrite, .request fWrite, rfl, nofun, by decide +kernel⟩,
    at0 [0x01, 0x06, 0x00, 0x03, 0x00, 0xAB, 0x38, 0x75], .request [0x01, 0x06, 0x00, 0x03, 0x00, 0xAB, 0x38, 0x75], rfl, nofun,
    by decide +kernel⟩

theorem witness_NoEventKeepsState : ∃ s : State, s.host = [] := ⟨s0 0x01, rfl⟩

theorem witness_HostDutiesAreRefused :
    (∃ (s : State) (rest : List HostEvent) (f : List Byte), s.host = .request f :: rest ∧ s.phase ≠ .idle) ∧
    (∃ (s : State) (rest : List HostEvent) (f : List Byte), s.host = .request f :: rest ∧ s.phase = .idle ∧
      s.cfg.maxFrameLen < f.length) ∧
    (∃ (s : State) (rest : List HostEvent) (a : Byte) (p : Config.Params), s.host = .reset a p :: rest ∧ s.phase ≠ .idle) :=
  ⟨⟨{ s0 0x01 with host := [.request fRead], phase := .count }, [], fRead, rfl, by decide⟩,
    ⟨at0 (List.replicate 257 0), [], List.replicate 257 0, rfl, rfl, by decide +kernel⟩,
    { s0 0x01 with host := [.reset 1 p0], phase := .count }, [], 1, p0, rfl, by decide⟩

theorem witness_TakenReturnsToIdle :
    ∃ (s : State) (rest : List HostEvent), s.host = .taken :: rest ∧ s.rspValid = true :=
  ⟨{ s0 0x01 with host := [.taken], phase := .count, rspValid := true }, [], rfl, rfl⟩

theorem witness_ResetEstablishes :
    ∃ (s : State) (rest : List HostEvent) (a : Byte) (p : Config.Params),
      s.host = .reset a p :: rest ∧ s.phase = .idle ∧ p.ok = true :=
  ⟨{ s0 0x01 with host := [.reset 0x11 p0] }, [], 0x11, p0, rfl, rfl, by decide +kernel⟩

theorem witness_ResetForgets :
    ∃ (s1 s2 : State) (rest : List HostEvent) (a : Byte) (p : Config.Params),
      s1.host = .reset a p :: rest ∧ s2.host = .reset a p :: rest ∧ s1.draws = s2.draws ∧ s1.slaveAddr ≠ s2.slaveAddr ∧
      nextIs (step s1) (fun _ => true) = true ∧ nextIs (step s2) (fun _ => true) = true :=
  ⟨{ s0 0x01 with host := [.reset 0x11 p0] }, { s0 0x02 with host := [.reset 0x11 p0] }, [], 0x11, p0, rfl, rfl, rfl,
    by decide, by decide +kernel, by decide +kernel⟩

theorem witness_ResetStateHoldsResetValues :
    (∃ k : Nat, 1 ≤ k ∧ k ≤ 17) ∧ (∃ k : Nat, 18 ≤ k ∧ k ≤ 20) := ⟨⟨17, by decide⟩, 18, by decide⟩

end Sys2Proof.Tests
end

/-! ## The illegal function codes (R79) -/

section

namespace Sys2Proof.Machine

/-! ### Which codes are illegal -/

/-- The ranges of R79. -/
theorem illegalCode_iff {n : Nat} : illegalCode n = true ↔ n = 0 ∨ (7 ≤ n ∧ n ≤ 0x0E) ∨ 0x11 ≤ n := by
  simp [illegalCode, or_assoc]

theorem illegalCode_byte (c : FunctionCode) : illegalCode c.byte.toNat = false := by
  cases c <;> rfl

/-- A legal code is the byte of one of the eight functions of R78. -/
theorem exists_byte_of_not_illegalCode {b : Byte} (h : illegalCode b.toNat ≠ true) : ∃ c : FunctionCode, b = c.byte := by
  have hcases : b.toNat = 1 ∨ b.toNat = 2 ∨ b.toNat = 3 ∨ b.toNat = 4 ∨ b.toNat = 5 ∨ b.toNat = 6 ∨
      b.toNat = 15 ∨ b.toNat = 16 := by
    rw [ne_eq, illegalCode_iff] at h
    omega
  obtain h1 | h2 | h3 | h4 | h5 | h6 | h15 | h16 := hcases
  · exact ⟨.rdo, BitVec.eq_of_toNat_eq h1⟩
  · exact ⟨.rdi, BitVec.eq_of_toNat_eq h2⟩
  · exact ⟨.rhr, BitVec.eq_of_toNat_eq h3⟩
  · exact ⟨.rir, BitVec.eq_of_toNat_eq h4⟩
  · exact ⟨.wdo, BitVec.eq_of_toNat_eq h5⟩
  · exact ⟨.whr, BitVec.eq_of_toNat_eq h6⟩
  · exact ⟨.wdon, BitVec.eq_of_toNat_eq h15⟩
  · exact ⟨.whrn, BitVec.eq_of_toNat_eq h16⟩

/-- The exact compare of the parser finds no function for the codes in the ranges of R79, and for those only. -/
theorem ofByte_eq_none_iff {b : Byte} : FunctionCode.ofByte b = none ↔ illegalCode b.toNat = true := by
  constructor
  · intro hnone
    by_contra hlegal
    obtain ⟨c, rfl⟩ := exists_byte_of_not_illegalCode hlegal
    simp [ofByte_byte] at hnone
  · intro hill
    cases hc : FunctionCode.ofByte b with
    | none => rfl
    | some c => simp [ofByte_eq_some_iff.mp hc, illegalCode_byte] at hill

theorem illegalCode_of_bit_seven {b : Byte} (h : b.getLsbD 7 = true) : illegalCode b.toNat = true := by
  have hge : 2 ^ 7 ≤ b.toNat := Nat.ge_two_pow_of_testBit h
  exact illegalCode_iff.mpr (by omega)

/-- The 9 illegal codes up to 0x10, and the 239 codes from 0x11 on. -/
theorem countP_illegalCode : (List.range 256).countP illegalCode = 248 := by
  have hlow : (List.range 17).countP illegalCode = 9 := by decide
  have hhigh : (List.range 239).countP (illegalCode ∘ (17 + ·)) = 239 := by
    have hall : ∀ k ∈ List.range 239, (illegalCode ∘ (17 + ·)) k = true :=
      fun k _ => illegalCode_iff.mpr (.inr (.inr (Nat.le_add_right 17 k)))
    rw [List.countP_eq_length.mpr hall, List.length_range]
  rw [show 256 = 17 + 239 from rfl, List.range_add, List.countP_append, List.countP_map, hlow, hhigh]

/-! ### What the parser makes of them -/

/-- An instruction whose handler reads the header carries the OFF and Q that were read (R124). -/
theorem headerFields_of_decodeFields {c : FunctionCode} {off q : Word} {f : List Byte} {i : Instr}
    (h : decodeFields c off q f = .ok i) : headerFields i = some (off, q) := by
  cases c with
  | whrn =>
    cases hbc : field f 6 with
    | none => simp [decodeFields, hbc] at h
    | some bc =>
      simp only [decodeFields, hbc, Except.ok.injEq] at h
      rw [← h]
      rfl
  | _ => cases h; rfl

/-- The parser answers ILLEGAL for the code at index 1 when the compare finds no function (R122). -/
theorem decode_of_ofByte_eq_none {f : List Byte} (hlen : 4 ≤ f.length) (hc : FunctionCode.ofByte (f.getD 1 0) = none) :
    decode f = .ok (.illegal (f.getD 1 0)) := by
  simp only [decode, if_neg (Nat.not_lt.mpr hlen), hc]

/-- The parser never answers ILLEGAL for a code that selects a function. -/
theorem decode_ne_illegal_of_ofByte_eq_some {f : List Byte} {c : FunctionCode} (hc : FunctionCode.ofByte (f.getD 1 0) = some c)
    (b : Byte) : decode f ≠ .ok (.illegal b) := by
  intro h
  simp only [decode, hc] at h
  split at h
  · cases h
  · split at h
    · exact nomatch headerFields_of_decodeFields h
    · cases h

/-- ILLEGAL is the answer exactly where the compare finds no function (R79, R122). -/
theorem decode_eq_illegal_iff {f : List Byte} (hlen : 4 ≤ f.length) :
    decode f = .ok (.illegal (f.getD 1 0)) ↔ FunctionCode.ofByte (f.getD 1 0) = none := by
  refine ⟨fun h => ?_, decode_of_ofByte_eq_none hlen⟩
  cases hc : FunctionCode.ofByte (f.getD 1 0) with
  | none => rfl
  | some c => exact absurd h (decode_ne_illegal_of_ofByte_eq_some hc _)

/-! ### What the handler makes of them -/

theorem exec_illegal (fc : Byte) (s : State) : exec (.illegal fc) s = takeException fc .illegalFunction s := by
  rfl

/-- Every illegal code raises exception 0x01 on every state (R122). -/
theorem raisesException_illegal (fc : Byte) (s : State) : RaisesException (.illegal fc) s .illegalFunction := by
  unfold RaisesException
  rw [exec_illegal]
  exact takeException_spec fc .illegalFunction s

/-- Settles O9: the parser's compare is the ranges of R79, and the handler of what it leaves over takes exception 0x01. -/
theorem illegalCodesAreTheOther248 : Obligations.IllegalCodesAreTheOther248 :=
  ⟨fun _ hlen => (decode_eq_illegal_iff hlen).trans ofByte_eq_none_iff,
    countP_illegalCode,
    fun _ => illegalCode_of_bit_seven,
    raisesException_illegal⟩

end Sys2Proof.Machine
end

/-! ## The CRC generator and a zero residue (R102, R111) -/

section

namespace Sys2Proof.Machine

/-! ### A byte as the low half of a word -/

theorem setWidth_eq_wordOf (b : Byte) : b.setWidth 16 = wordOf 0 b := by
  apply BitVec.eq_of_toNat_eq
  have hb := b.isLt
  rw [wordOf_toNat, BitVec.toNat_setWidth, Nat.mod_eq_of_lt (by omega)]
  simp

theorem wordOf_xor_setWidth (hi lo : Byte) : wordOf hi lo ^^^ lo.setWidth 16 = wordOf hi 0 := by
  rw [setWidth_eq_wordOf]
  calc wordOf hi lo ^^^ wordOf 0 lo
    _ = (hi ^^^ 0) ++ (lo ^^^ lo) := BitVec.xor_append
    _ = wordOf hi 0 := by rw [BitVec.xor_self, wordOf]; simp

theorem wordOf_ushiftRight_eight (hi lo : Byte) : wordOf hi lo >>> 8 = hi.setWidth 16 := by
  apply BitVec.eq_of_toNat_eq
  have hlo := lo.isLt
  rw [setWidth_eq_wordOf, BitVec.toNat_ushiftRight, wordOf_toNat, wordOf_toNat, Nat.shiftRight_eq_div_pow]
  simp
  omega

theorem getLsbD_wordOf_zero (hi : Byte) {j : Nat} (hj : j < 8) : (wordOf hi 0).getLsbD j = false := by
  exact BitVec.getLsbD_append.trans (by simp [hj])

/-! ### The bit-serial generator -/

/-- A pending input `w` that is exclusive-ored into the register may as well enter bit by bit at the feedback: the shift of the
two together is a serial step on the lowest bit of `w`, with the rest of `w` still pending. -/
theorem crcShift_xor (c w : Word) : crcShift (c ^^^ w) = crcSerialBit c (w.getLsbD 0) ^^^ (w >>> 1) := by
  simp only [crcShift, crcSerialBit, BitVec.getLsbD_xor, BitVec.ushiftRight_xor_distrib]
  split
  case isTrue => ac_rfl
  case isFalse => simp

/-- After `k` shifts the lowest `k` bits of the pending input have entered; the others are still pending. -/
theorem crcShifts_xor (k : Nat) (c w : Word) :
    crcShifts k (c ^^^ w) = (List.range k).foldl (fun r j => crcSerialBit r (w.getLsbD j)) c ^^^ (w >>> k) := by
  induction k generalizing c w with
  | zero => simp [crcShifts]
  | succ k ih =>
    have hbit (j : Nat) : (w >>> 1).getLsbD j = w.getLsbD (j + 1) := by
      rw [BitVec.getLsbD_ushiftRight, Nat.add_comm]
    have hrest : w >>> 1 >>> k = w >>> (k + 1) := by
      rw [← BitVec.shiftRight_add, Nat.add_comm]
    rw [crcShifts_succ, crcShift_xor, ih, List.range_succ_eq_map, List.foldl_cons, List.foldl_map, hrest]
    simp only [hbit, Nat.succ_eq_add_one]

/-- Settles O2: after eight shifts no bit of the byte is pending. -/
theorem crcBitSerialAgrees : Obligations.CrcBitSerialAgrees := by
  intro c b
  have hnone : b.setWidth 16 >>> 8 = 0#16 := by
    rw [setWidth_eq_wordOf, wordOf_ushiftRight_eight]
    rfl
  have hbit (j : Nat) : (b.setWidth 16).getLsbD j = b.getLsbD j := by
    rw [BitVec.getLsbD_setWidth]
    by_cases hj : j < 8
    · simp [show j < 16 by omega]
    · simp [BitVec.getLsbD_of_ge b j (by omega)]
  simp only [crcStep, crcShifts_xor, hnone, crcSerialByte, hbit, BitVec.xor_zero]

/-! ### The generator loses nothing -/

/-- The top bit after a shift tells which bit was shifted out: the polynomial has bit 15 set. -/
theorem getLsbD_crcShift_fifteen (c : Word) : (crcShift c).getLsbD 15 = c.getLsbD 0 := by
  unfold crcShift
  split
  case isTrue h => rw [h]; simp [crcPoly]
  case isFalse h => rw [Bool.eq_false_iff.mpr h]; simp

theorem crcShift_injective : Function.Injective crcShift := by
  intro c d h
  have hlow : c.getLsbD 0 = d.getLsbD 0 := by
    rw [← getLsbD_crcShift_fifteen, h, getLsbD_crcShift_fifteen]
  have hhigh : c >>> 1 = d >>> 1 := by
    simp only [crcShift, hlow] at h
    split at h
    case isTrue => exact (BitVec.xor_left_inj _).mp h
    case isFalse => exact h
  apply BitVec.eq_of_getLsbD_eq
  intro i _
  cases i with
  | zero => exact hlow
  | succ i => simpa [Nat.add_comm] using congrArg (·.getLsbD i) hhigh

theorem crcShifts_injective (k : Nat) : Function.Injective (crcShifts k) := by
  induction k with
  | zero => exact Function.injective_id
  | succ k ih => exact ih.comp crcShift_injective

theorem crcStep_injective (b : Byte) : Function.Injective (crcStep · b) := by
  intro c d h
  exact (BitVec.xor_left_inj _).mp (crcShifts_injective 8 h)

/-! ### A checksum that follows its message leaves zero -/

/-- No feedback happens while the bits shifted out are 0. -/
theorem crcShifts_of_low_zero {k : Nat} {c : Word} (h : ∀ j, j < k → c.getLsbD j = false) : crcShifts k c = c >>> k := by
  induction k generalizing c with
  | zero => simp [crcShifts]
  | succ k ih =>
    have hshift : crcShift c = c >>> 1 := by
      simp only [crcShift, h 0 (Nat.succ_pos k), Bool.false_eq_true, if_false]
    have hlow : ∀ j, j < k → (c >>> 1).getLsbD j = false := by
      intro j hj
      rw [BitVec.getLsbD_ushiftRight]
      exact h (1 + j) (by omega)
    rw [crcShifts_succ, hshift, ih hlow, ← BitVec.shiftRight_add, Nat.add_comm]

/-- The low byte of the register as input cancels itself and brings the high byte down. -/
theorem crcStep_wordOf (hi lo : Byte) : crcStep (wordOf hi lo) lo = hi.setWidth 16 := by
  rw [crcStep, wordOf_xor_setWidth, crcShifts_of_low_zero (fun _ => getLsbD_wordOf_zero hi), wordOf_ushiftRight_eight]

/-- A zero register is reached by the byte that the register holds, and by no other. -/
theorem crcStep_eq_zero_iff {c : Word} {b : Byte} : crcStep c b = 0 ↔ c = b.setWidth 16 := by
  have hzero : crcStep (b.setWidth 16) b = 0 := by
    rw [setWidth_eq_wordOf, crcStep_wordOf]
    rfl
  rw [← hzero, (crcStep_injective b).eq_iff]

theorem crc16_eq_iff {m : List Byte} {lo hi : Byte} : crc16 m = (lo, hi) ↔ crcOver m = wordOf hi lo := by
  constructor
  · rintro ⟨rfl, rfl⟩
    exact (wordOf_hiByte_loByte _).symm
  · intro h
    rw [crc16, h, loByte_wordOf, hiByte_wordOf]

/-- Two more bytes leave 0 exactly when they are the checksum, low byte first. -/
theorem crcOver_append_pair_eq_zero_iff {m : List Byte} {lo hi : Byte} :
    crcOver (m ++ [lo, hi]) = 0 ↔ crc16 m = (lo, hi) := by
  calc crcOver (m ++ [lo, hi]) = 0
    _ ↔ crcStep (crcStep (crcOver m) lo) hi = 0 := by rw [crcOver_append]; rfl
    _ ↔ crcStep (crcOver m) lo = crcStep (wordOf hi lo) lo := by rw [crcStep_eq_zero_iff, crcStep_wordOf]
    _ ↔ crcOver m = wordOf hi lo := (crcStep_injective lo).eq_iff
    _ ↔ crc16 m = (lo, hi) := crc16_eq_iff.symm

/-- A frame is its payload and the two bytes of its trailer (R19, R70). -/
theorem payload_append_trailer {f : List Byte} (h : 2 ≤ f.length) :
    payload f ++ [f.getD (f.length - 2) 0, f.getD (f.length - 1) 0] = f := by
  have hlast : f.length - 2 + 1 = f.length - 1 := by omega
  have hdrop : f.drop (f.length - 2) = [f.getD (f.length - 2) 0, f.getD (f.length - 1) 0] := by
    rw [List.drop_eq_getElem_cons (by omega), List.drop_eq_getElem_cons (by omega), List.drop_eq_nil_of_le (by omega)]
    simp [List.getD_eq_getElem?_getD, hlast, show 0 < f.length by omega]
  rw [payload, ← hdrop, List.take_append_drop]

/-- Settles O3: the trailer is the one pair of bytes that leaves 0. -/
theorem crcResidueDecides : Obligations.CrcResidueDecides := by
  refine ⟨fun m => crcOver_append_pair_eq_zero_iff.mpr rfl,
    fun m a b h => (crcOver_append_pair_eq_zero_iff.mp h).symm, fun addr f hlen haddr => ?_⟩
  calc validate addr f = none
    _ ↔ crc16 (payload f) = (f.getD (f.length - 2) 0, f.getD (f.length - 1) 0) := by
      simp only [validate_eq_none_iff, hlen, haddr, true_and]
    _ ↔ crcOver (payload f ++ [f.getD (f.length - 2) 0, f.getD (f.length - 1) 0]) = 0 :=
      crcOver_append_pair_eq_zero_iff.symm
    _ ↔ crcOver f = 0 := by rw [payload_append_trailer (by omega)]

end Sys2Proof.Machine
end

/-! ## The sealer (R109, R110, R126) -/

section

namespace Sys2Proof.Machine

/-- The worked example of R109. -/
theorem sealFrame_example :
    sealFrame [0x01, 0x06, 0x00, 0x03, 0x00, 0xAB] = [0x01, 0x06, 0x00, 0x03, 0x00, 0xAB, 0x38, 0x75] := by
  decide +kernel

/-- Settles O5: the sealer writes the frame of the body, whatever stood in the two slots. -/
theorem sealerOverwritesReservedSlots : Obligations.SealerOverwritesReservedSlots := by
  refine ⟨fun s => State.sealed_rsp_nil, fun s body r0 r1 h => ?_, fun s => rfl, sealFrame_example⟩
  have hsealed : s.sealed.rsp = body ++ [(crc16 body).1, (crc16 body).2] := State.sealed_rsp_append h
  exact ⟨hsealed, by simp [hsealed, h]⟩

/-- A sealed body that starts with the address passes the validator at that address (R110). -/
theorem validate_sealFrame {addr : Byte} {b : List Byte} (hlen : 2 ≤ b.length) (haddr : b.getD 0 0 = addr) :
    validate addr (sealFrame b) = none := by
  have hhead : (sealFrame b).getD 0 0 = addr := by
    rw [sealFrame, List.getD_append _ _ _ _ (by omega), haddr]
  rw [validate_eq_none_iff, payload_sealFrame, length_sealFrame]
  refine ⟨by omega, hhead, ?_⟩
  simp [sealFrame, littleEndian, crc16, List.getD_eq_getElem?_getD]

/-! ### How a handler may end -/

/-- All that a handler may have changed before it responds: DO, HR and the count of draws. -/
def OnlyOutputsAndDraws (s w : State) : Prop :=
  w = { s with DO := w.DO, HR := w.HR, draws := w.draws }

theorem OnlyOutputsAndDraws.slaveAddr_eq {s w : State} (h : OnlyOutputsAndDraws s w) : w.slaveAddr = s.slaveAddr := by
  rw [h]

theorem onlyOutputsAndDraws_refl (s : State) : OnlyOutputsAndDraws s s := rfl

theorem onlyOutputsAndDraws_setDO (s : State) (bank : Vector Bool capDO) : OnlyOutputsAndDraws s (s.setDO bank) := rfl

theorem onlyOutputsAndDraws_setHR (s : State) (bank : Vector Word capHR) : OnlyOutputsAndDraws s (s.setHR bank) := rfl

theorem onlyOutputsAndDraws_drew (s : State) (k : Nat) : OnlyOutputsAndDraws s (s.drew k) := rfl

/-- Where `r` is a next state, the handler that started in `s` ended with Drop(Short), or with a response of the slave's
address, a code byte and more. -/
def EndsHandler (s : State) (r : Result) : Prop :=
  ∀ u, r = .next u →
    u = s.dropped .short ∨
    ∃ (w : State) (o : TxOutcome) (code : Byte) (tail : List Byte),
      OnlyOutputsAndDraws s w ∧ u = w.respond o (s.slaveAddr :: code :: tail)

theorem endsHandler_respond {s w : State} (o : TxOutcome) (code : Byte) (tail : List Byte)
    (hw : OnlyOutputsAndDraws s w) :
    EndsHandler s (.next (w.respond o (s.slaveAddr :: code :: tail))) := by
  rintro u ⟨⟩
  exact .inr ⟨w, o, code, tail, hw, rfl⟩

theorem endsHandler_dropShort (s : State) : EndsHandler s (dropShort s) := by
  rintro u ⟨⟩
  exact .inl rfl

theorem endsHandler_fault (e : Fault) (s : State) : EndsHandler s (.fault e) := by
  intro u h
  cases h

theorem endsHandler_refused (e : Refusal) (s : State) : EndsHandler s (.refused e) := by
  intro u h
  cases h

theorem endsHandler_takeException (fc : Byte) (c : ExceptionCode) (s : State) : EndsHandler s (takeException fc c s) :=
  endsHandler_respond _ _ _ (onlyOutputsAndDraws_refl s)

theorem endsHandler_emitRead {s w : State} (fc : FunctionCode) (data : List Byte)
    (hw : OnlyOutputsAndDraws s w) : EndsHandler s (emitRead fc data w) := by
  rw [emitRead, hw.slaveAddr_eq]
  exact endsHandler_respond .normal fc.byte (BitVec.ofNat 8 data.length :: data) hw

theorem endsHandler_emitEcho {s w : State} (fc : FunctionCode) (off q : Word)
    (hw : OnlyOutputsAndDraws s w) : EndsHandler s (emitEcho fc off q w) := by
  rw [emitEcho, hw.slaveAddr_eq]
  exact endsHandler_respond .normal fc.byte (bigEndian off ++ bigEndian q) hw

theorem endsHandler_readBits {n : Nat} (name : BankName) (bank : Vector Bool n) (fc : FunctionCode) (off m : Nat) (s : State) :
    EndsHandler s (readBits name bank fc off m s) := by
  unfold readBits
  split
  case h_1 => exact endsHandler_emitRead _ _ (onlyOutputsAndDraws_refl s)
  case h_2 => exact endsHandler_fault _ s

theorem endsHandler_readWords {n : Nat} (name : BankName) (bank : Vector Word n) (fc : FunctionCode) (off m : Nat) (s : State) :
    EndsHandler s (readWords name bank fc off m s) := by
  unfold readWords
  split
  case h_1 => exact endsHandler_emitRead _ _ (onlyOutputsAndDraws_refl s)
  case h_2 => exact endsHandler_fault _ s

theorem endsHandler_readGap (off m : Nat) (s : State) : EndsHandler s (readGap off m s) := by
  unfold readGap
  split
  case isTrue => exact endsHandler_refused _ s
  case isFalse => exact endsHandler_emitRead _ _ (onlyOutputsAndDraws_drew s m)

theorem endsHandler_writeDO (fc : FunctionCode) (off q : Word) (bits : List Bool) (s : State) :
    EndsHandler s (writeDO fc off q bits s) := by
  unfold writeDO
  split
  case h_1 bank _ => exact endsHandler_emitEcho _ _ _ (onlyOutputsAndDraws_setDO s bank)
  case h_2 => exact endsHandler_fault _ s

theorem endsHandler_writeHR (fc : FunctionCode) (off q : Word) (ws : List Word) (s : State) :
    EndsHandler s (writeHR fc off q ws s) := by
  unfold writeHR
  split
  case h_1 bank _ => exact endsHandler_emitEcho _ _ _ (onlyOutputsAndDraws_setHR s bank)
  case h_2 => exact endsHandler_fault _ s

theorem endsHandler_ite {p : Prop} [Decidable p] {s : State} {r1 r2 : Result} (h1 : EndsHandler s r1)
    (h2 : EndsHandler s r2) : EndsHandler s (if p then r1 else r2) := by
  split
  case isTrue => exact h1
  case isFalse => exact h2

theorem endsHandler_execWdon (off n : Word) (bc : Option Byte) (data : List Byte) (s : State) :
    EndsHandler s (execWdon off n bc data s) := by
  refine endsHandler_ite ?_ (endsHandler_takeException _ _ s)
  split
  case h_1 => exact endsHandler_writeDO _ _ _ _ s
  case h_2 => exact endsHandler_dropShort s

theorem endsHandler_execWhrn (off n : Word) (bc : Byte) (data : List Byte) (s : State) :
    EndsHandler s (execWhrn off n bc data s) := by
  refine endsHandler_ite (endsHandler_ite ?_ (endsHandler_takeException _ _ s)) (endsHandler_takeException _ _ s)
  split
  case h_1 => exact endsHandler_writeHR _ _ _ _ s
  case h_2 => exact endsHandler_dropShort s

theorem endsHandler_exec (i : Instr) (s : State) : EndsHandler s (exec i s) := by
  have hexc (fc : Byte) (c : ExceptionCode) := endsHandler_takeException fc c s
  cases i with
  | rdo off n => exact endsHandler_ite (endsHandler_readBits _ _ _ _ _ s) (hexc _ _)
  | rdi off n =>
    exact endsHandler_ite (endsHandler_ite (endsHandler_readBits _ _ _ _ _ s) (hexc _ _)) (endsHandler_readGap _ _ s)
  | rhr off n => exact endsHandler_ite (endsHandler_readWords _ _ _ _ _ s) (hexc _ _)
  | rir off n bc => exact endsHandler_ite (endsHandler_ite (endsHandler_readWords _ _ _ _ _ s) (hexc _ _)) (hexc _ _)
  | wdo off v => exact endsHandler_ite (endsHandler_ite (endsHandler_writeDO _ _ _ _ s) (hexc _ _)) (hexc _ _)
  | whr off v => exact endsHandler_ite (endsHandler_writeHR _ _ _ _ s) (hexc _ _)
  | wdon off n bc data => exact endsHandler_execWdon off n bc data s
  | whrn off n bc data => exact endsHandler_execWhrn off n bc data s
  | illegal fc => exact hexc fc _

/-! ### What a request's step leaves on offer -/

/-- The response of a transaction is empty, or it is a sealed body of the slave's address, a code byte and more. -/
theorem step_request_rsp {s t : State} {f : List Byte} (hoff : s.Offered f) (hstep : step s = .next t) :
    t.rsp = [] ∨ ∃ (code : Byte) (tail : List Byte), t.rsp = sealFrame (s.slaveAddr :: code :: tail) := by
  obtain ⟨hhead, -, -⟩ := hoff
  obtain ⟨hnil, -⟩ | ⟨g, rest, -, -, -, hreq⟩ | ⟨rest, htaken, -⟩ | ⟨a, p, rest, hreset, -⟩ := step_next_cases hstep
  · simp [hnil] at hhead
  · obtain ⟨r, -, rfl⟩ | ⟨-, e, -, rfl⟩ | ⟨-, i, u, -, hexec, rfl⟩ := hreq
    · exact .inl (by simp)
    · exact .inl (by simp)
    · obtain rfl | ⟨w, o, code, tail, -, rfl⟩ := endsHandler_exec i _ u hexec
      · exact .inl (by simp)
      · exact .inr ⟨code, tail, by simp⟩
  · simp [htaken] at hhead
  · simp [hreset] at hhead

/-- Settles O4: what the sealer makes of a body at this address passes, and every response on offer is such a body sealed. -/
theorem sealThenValidate : Obligations.SealThenValidate := by
  refine ⟨fun addr b => validate_sealFrame, fun s t f hoff hstep hne => ?_⟩
  obtain hnil | ⟨code, tail, hrsp⟩ := step_request_rsp hoff hstep
  · exact absurd hnil hne
  · rw [hrsp]
    exact validate_sealFrame (by simp) rfl

end Sys2Proof.Machine
end

/-! ## Frames that fail validation (R108, R112) -/

section

namespace Sys2Proof.Machine

/-- A request that is too short, at another address or with a wrong trailer is dropped, and the drop is sealed, counted and
completed (R106, R108). -/
theorem step_of_validate_eq_some {s : State} {f : List Byte} {r : DropReason} (hoff : s.Offered f)
    (hv : validate s.slaveAddr f = some r) :
    ∃ rest, step s = .next (((s.scheduled rest).accept f).dropped r).finish := by
  obtain ⟨hhead, hidle, hlen⟩ := hoff
  obtain ⟨rest, hhost⟩ := List.head?_eq_some_iff.mp hhead
  refine ⟨rest, ?_⟩
  simp [step, nextEvent, hhost, deliver, hidle, Nat.not_lt.mpr hlen, transact, hv]

/-- The length comes before any byte is compared (R106, R112). -/
theorem validate_of_length_lt_four {f : List Byte} (addr : Byte) (h : f.length < 4) : validate addr f = some .tooShort :=
  if_pos h

/-- What R12 asks of the three counter slots. -/
theorem counterSlots_of_ok {p : Config.Params} (h : p.ok = true) :
    p.idxReqCount ≠ p.idxRxBytes ∧ p.idxReqCount ≠ p.idxTxBytes ∧ p.idxRxBytes ≠ p.idxTxBytes := by
  simp only [Config.Params.ok, Bool.and_eq_true, decide_eq_true_eq] at h
  exact h.2

/-- COUNT moves each of the three counters by its own amount, since their slots differ (R12, R210). -/
theorem countersMoved_of_IR {s t : State} {len rspLen : Nat} (hok : s.cfg.ok = true)
    (hIR : t.IR = bankAdd (bankAdd (bankAdd s.IR s.cfg.idxReqCount 1) s.cfg.idxRxBytes len) s.cfg.idxTxBytes rspLen) :
    CountersMoved s t len rspLen := by
  obtain ⟨hreqRx, hreqTx, hrxTx⟩ := counterSlots_of_ok hok
  refine ⟨?_, ?_, ?_, fun k hk => ?_⟩
  · simp [hIR, bankGet_bankAdd, hreqRx, hreqTx]
  · simp [hIR, bankGet_bankAdd, hreqRx.symm, hrxTx]
  · simp [hIR, bankGet_bankAdd, hreqTx.symm, hrxTx.symm]
  · simp only [Config.Params.isCounterSlot, Bool.or_eq_false_iff, beq_eq_false_iff_ne] at hk
    obtain ⟨⟨hreq, hrx⟩, htx⟩ := hk
    simp [hIR, bankGet_bankAdd, hreq, hrx, htx]

/-- Settles O40: the drop of a frame that fails validation. -/
theorem validationFailureIsSilent : Obligations.ValidationFailureIsSilent := by
  intro s f r hoff hok hv
  obtain ⟨rest, hstep⟩ := step_of_validate_eq_some hoff hv
  exact ⟨_, hstep, by simp, by simp, by simp [SameBanks], by simp [SameConfig],
    countersMoved_of_IR hok (by simp)⟩

/-- Settles O39: too short is the first of the validator's drops. -/
theorem tooShortIsDropped : Obligations.TooShortIsDropped := by
  intro s f hoff hlen
  obtain ⟨rest, hstep⟩ := step_of_validate_eq_some hoff (validate_of_length_lt_four s.slaveAddr hlen)
  exact ⟨_, hstep, by simp, by simp, by simp [SameBanks]⟩

end Sys2Proof.Machine
end

/-! ## The header and what a valid frame's step is (R122, R124) -/

section

namespace Sys2Proof.Machine

/-! ### The parser on a legal code -/

/-- A frame too short for Q has no instruction (R124). -/
theorem decode_of_length_lt_eight {f : List Byte} {c : FunctionCode} (hc : FunctionCode.ofByte (f.getD 1 0) = some c)
    (hlen : 4 ≤ f.length) (hshort : f.length < 8) : decode f = .error .short := by
  have hq : be16 f 4 = none := be16_eq_none (by omega)
  simp only [decode, if_neg (Nat.not_lt.mpr hlen), hc, hq]
  cases be16 f 2 <;> rfl

/-- From eight bytes on, the parser reads OFF and Q and goes on to the fields of the function (R124). -/
theorem decode_of_eight_le_length {f : List Byte} {c : FunctionCode} (hc : FunctionCode.ofByte (f.getD 1 0) = some c)
    (hlen : 8 ≤ f.length) :
    decode f = decodeFields c (wordOf (f.getD 2 0) (f.getD 3 0)) (wordOf (f.getD 4 0) (f.getD 5 0)) f := by
  have hoff := be16_eq_some (f := f) (i := 2) (by omega)
  have hq := be16_eq_some (f := f) (i := 4) (by omega)
  simp only [decode, if_neg (show ¬ f.length < 4 by omega), hc, hoff, hq]

/-- Function 16 alone reads one more field before its first check, its byte count (R123, R174). -/
theorem decodeFields_whrn_of_length_lt_nine {f : List Byte} (off q : Word) (hshort : f.length < 9) :
    decodeFields .whrn off q f = .error .short := by
  have hbc : field f 6 = none := field_eq_none hshort
  simp only [decodeFields, hbc]

theorem exists_decodeFields_eq_ok {f : List Byte} (c : FunctionCode) (off q : Word) (hbc : c = .whrn → 9 ≤ f.length) :
    ∃ i, decodeFields c off q f = .ok i := by
  cases c with
  | whrn =>
    have hfield := field_eq_some (f := f) (i := 6) (hbc rfl)
    exact ⟨.whrn off q (f.getD 6 0) ((payload f).drop 7), by simp only [decodeFields, hfield]⟩
  | _ => exact ⟨_, rfl⟩

theorem fc_of_decodeFields {c : FunctionCode} {off q : Word} {f : List Byte} {i : Instr}
    (h : decodeFields c off q f = .ok i) : i.fc = c.byte := by
  cases c with
  | whrn =>
    simp only [decodeFields] at h
    split at h
    · cases h; rfl
    · cases h
  | _ => cases h; rfl

/-- Whatever the parser answers has byte 1 of the frame as its code (R78, R121). -/
theorem fc_of_decode {f : List Byte} {i : Instr} (h : decode f = .ok i) : i.fc = f.getD 1 0 := by
  unfold decode at h
  split at h
  · cases h
  · cases hc : FunctionCode.ofByte (f.getD 1 0) with
    | none =>
      simp only [hc] at h
      cases h
      rfl
    | some c =>
      simp only [hc] at h
      split at h
      · exact (fc_of_decodeFields h).trans (ofByte_eq_some_iff.mp hc).symm
      · cases h

/-- Two bytes of a frame as a word, by the numbers of R76. -/
theorem wordOf_eq_ofNat (hi lo : Byte) : wordOf hi lo = BitVec.ofNat 16 (hi.toNat * 256 + lo.toNat) := by
  rw [← wordOf_toNat, BitVec.ofNat_toNat, BitVec.setWidth_eq]

theorem exists_ofByte_eq_some {b : Byte} (h : illegalCode b.toNat = false) : ∃ c, FunctionCode.ofByte b = some c := by
  obtain ⟨c, rfl⟩ := exists_byte_of_not_illegalCode (Bool.eq_false_iff.mp h)
  exact ⟨c, ofByte_byte c⟩

theorem decode_of_function_sixteen_short {f : List Byte} (hc : f.getD 1 0 = 0x10) (hlen : 4 ≤ f.length)
    (hshort : f.length < 9) : decode f = .error .short := by
  have hwhrn : FunctionCode.ofByte (f.getD 1 0) = some .whrn := ofByte_eq_some_iff.mpr hc
  by_cases h8 : f.length < 8
  · exact decode_of_length_lt_eight hwhrn hlen h8
  · rw [decode_of_eight_le_length hwhrn (by omega)]
    exact decodeFields_whrn_of_length_lt_nine _ _ hshort

/-- Step 5 of R204 at the parser, for a code read as a number. -/
theorem decode_of_header_short {f : List Byte} (hlegal : illegalCode (byteAt f 1) = false) (hlen : 4 ≤ f.length)
    (hshort : f.length < 8 ∨ (byteAt f 1 = 0x10 ∧ f.length < 9)) : decode f = .error .short := by
  obtain h8 | ⟨h16, h9⟩ := hshort
  · obtain ⟨c, hc⟩ := exists_ofByte_eq_some hlegal
    exact decode_of_length_lt_eight hc hlen h8
  · exact decode_of_function_sixteen_short (BitVec.eq_of_toNat_eq h16) hlen h9

/-! ### The step of a valid frame -/

/-- A valid frame is long enough to have a code, and byte 0 is the slave's address (R106). -/
theorem header_of_offeredValid {s : State} {f : List Byte} (hv : s.OfferedValid f) :
    4 ≤ f.length ∧ f.getD 0 0 = s.slaveAddr := by
  obtain ⟨-, hvalid⟩ := hv
  obtain ⟨hlen, haddr, -⟩ := validate_eq_none_iff.mp hvalid
  exact ⟨hlen, haddr⟩

/-- The step of a valid frame is its dispatch; the end of it is sealed, counted and completed (R120). -/
theorem step_of_offeredValid {s : State} {f : List Byte} (hv : s.OfferedValid f) :
    ∃ rest, step s = finishResult (dispatch ((s.scheduled rest).accept f).validated) := by
  obtain ⟨⟨hhead, hidle, hlen⟩, hvalid⟩ := hv
  obtain ⟨rest, hhost⟩ := List.head?_eq_some_iff.mp hhead
  refine ⟨rest, ?_⟩
  simp [step, nextEvent, hhost, deliver, hidle, Nat.not_lt.mpr hlen, transact, hvalid]

/-- A valid frame without an instruction is dropped (R123). -/
theorem step_of_decode_eq_error {s : State} {f : List Byte} {e : DecodeError} (hv : s.OfferedValid f)
    (hd : decode f = .error e) :
    ∃ rest, step s = .next (((s.scheduled rest).accept f).validated.dropped .short).finish := by
  obtain ⟨rest, hstep⟩ := step_of_offeredValid hv
  exact ⟨rest, by simp [hstep, dispatch, hd, dropShort, finishResult]⟩

/-- A valid frame with an instruction runs its handler (R121). -/
theorem step_of_decode_eq_ok {s : State} {f : List Byte} {i : Instr} (hv : s.OfferedValid f) (hd : decode f = .ok i) :
    ∃ rest, step s = finishResult (exec i (s.atHandler f rest)) := by
  obtain ⟨rest, hstep⟩ := step_of_offeredValid hv
  have hstart : ((s.scheduled rest).accept f).validated.handling = s.atHandler f rest := rfl
  exact ⟨rest, by simp [hstep, dispatch, hd, hstart]⟩

/-- Settles O8: the parser needs Q inside the payload, and BC for function 16; a valid frame without them is dropped. -/
theorem headerParse : Obligations.HeaderParse := by
  refine ⟨fun f c => decode_of_length_lt_eight, fun f => decode_of_function_sixteen_short, ?_, ?_⟩
  · intro f c hc hlen hbc
    obtain ⟨i, hi⟩ := exists_decodeFields_eq_ok c (wordOf (f.getD 2 0) (f.getD 3 0)) (wordOf (f.getD 4 0) (f.getD 5 0)) hbc
    have hd : decode f = .ok i := (decode_of_eight_le_length hc hlen).trans hi
    refine ⟨i, hd, fc_of_decode hd, ?_⟩
    rw [headerFields_of_decodeFields hi, wordOf_eq_ofNat, wordOf_eq_ofNat]
    rfl
  · intro s f hv hlegal hshort
    obtain ⟨hlen, -⟩ := header_of_offeredValid hv
    obtain ⟨rest, hstep⟩ := step_of_decode_eq_error hv (decode_of_header_short hlegal hlen hshort)
    exact ⟨_, hstep, by simp, by simp, by simp [SameBanks]⟩

/-- The whole transaction of a valid frame with an illegal code: exception 0x01, sealed, counted and completed (R122). -/
theorem step_of_illegalCode {s : State} {f : List Byte} (hv : s.OfferedValid f) (hill : illegalCode (byteAt f 1) = true) :
    ∃ rest, step s = .next ((s.atHandler f rest).respond (.exception .illegalFunction)
      (exceptionBody s (f.getD 1 0) 0x01)).finish := by
  obtain ⟨hlen, -⟩ := header_of_offeredValid hv
  have hd := decode_of_ofByte_eq_none hlen (ofByte_eq_none_iff.mpr hill)
  obtain ⟨rest, hstep⟩ := step_of_decode_eq_ok hv hd
  exact ⟨rest, hstep⟩

/-- Settles O41: the transaction of an illegal code, field by field; a valid frame's byte 0 is the slave's address. -/
theorem illegalFunctionTransaction : Obligations.IllegalFunctionTransaction := by
  intro s f hv hok hill
  obtain ⟨-, haddr⟩ := header_of_offeredValid hv
  obtain ⟨rest, hstep⟩ := step_of_illegalCode hv hill
  refine ⟨_, hstep, by simp, ?_, by simp [SameBanks], countersMoved_of_IR hok ?_⟩
  · rw [haddr, State.finish_rsp, State.sealed_rsp_respond]
    rfl
  · simp [length_sealFrame, exceptionBody]

end Sys2Proof.Machine
end

/-! ## What a request is answered with (R128) -/

section

namespace Sys2Proof.Machine

/-! ### The response by outcome and function -/

/-- How many data bytes a normal response of a read function can carry, function 02's range check in force or not (R128, R143);
a write function carries none. -/
def DataFits (check02 : Bool) (n : Nat) : FunctionCode → Prop
  | .rdo => n ≤ 3
  | .rdi => n ≤ 255 ∧ (check02 = true → n ≤ 3)
  | .rhr => n ≤ 20
  | .rir => 2 ≤ n ∧ n ≤ 40
  | .wdo | .whr | .wdon | .whrn => False

/-- The write functions of R78. -/
def IsWriteFunction (c : FunctionCode) : Prop := c ∈ [FunctionCode.wdo, .whr, .wdon, .whrn]

/-- `rsp` is a sealed response of the slave `s` to a request of code `fc` that ended with the outcome (R75, R201, R203). -/
inductive RespondsTo (s : State) (fc : Byte) : TxOutcome → List Byte → Prop where
  | silent (r : DropReason) : RespondsTo s fc (.drop r) []
  | exception (e : ExceptionCode) : RespondsTo s fc (.exception e) (sealFrame (exceptionBody s fc e.byte))
  | data {c : FunctionCode} {data : List Byte} (hc : fc = c.byte) (hfits : DataFits s.cfg.fn02RangeCheck data.length c) :
      RespondsTo s fc .normal (sealFrame (readBody s fc data))
  | echo {c : FunctionCode} (off q : Word) (hc : fc = c.byte) (hwrite : IsWriteFunction c) :
      RespondsTo s fc .normal (sealFrame (echoBody s fc off q))

/-- Of the slave's state, only its configuration counts. -/
theorem RespondsTo.of_sameConfig {s t : State} {fc : Byte} {o : TxOutcome} {rsp : List Byte} (h : RespondsTo t fc o rsp)
    (hsame : SameConfig s t) : RespondsTo s fc o rsp := by
  obtain ⟨haddr, hcfg⟩ := hsame
  cases h with
  | silent r => exact .silent r
  | exception e =>
    rw [exceptionBody, haddr]
    exact .exception e
  | data hc hfits =>
    rw [readBody, haddr]
    exact .data hc (hcfg ▸ hfits)
  | echo off q hc hwrite =>
    rw [echoBody, haddr]
    exact .echo off q hc hwrite

/-- Where `r` is a next state, sealing it leaves a response of `s` to a request of code `fc`. -/
def EndsInResponse (s : State) (fc : Byte) (r : Result) : Prop :=
  ∀ u, r = .next u → ∃ o, u.outcome = some o ∧ RespondsTo s fc o u.sealed.rsp

/-! ### Each end of a handler -/

theorem endsInResponse_respond {s w : State} {fc : Byte} {o : TxOutcome} {body : List Byte}
    (h : RespondsTo s fc o (sealFrame body)) : EndsInResponse s fc (.next (w.respond o body)) := by
  rintro u ⟨⟩
  exact ⟨o, rfl, by rwa [State.sealed_rsp_respond]⟩

theorem endsInResponse_dropShort (s : State) (fc : Byte) : EndsInResponse s fc (dropShort s) := by
  rintro u ⟨⟩
  exact ⟨.drop .short, rfl, by rw [State.sealed_rsp_dropped]; exact .silent .short⟩

theorem endsInResponse_takeException (fc : Byte) (e : ExceptionCode) (s : State) :
    EndsInResponse s fc (takeException fc e s) :=
  endsInResponse_respond (.exception e)

theorem endsInResponse_readBits {n : Nat} (name : BankName) (bank : Vector Bool n) (c : FunctionCode) {off m : Nat} (s : State)
    (hrange : off + m ≤ n) (hfits : DataFits s.cfg.fn02RangeCheck (packedLen m) c) :
    EndsInResponse s c.byte (readBits name bank c off m s) := by
  obtain ⟨data, ⟨hlen, -⟩, heq⟩ := readBits_spec name bank c s hrange
  rw [heq]
  exact endsInResponse_respond (.data rfl (hlen ▸ hfits))

theorem endsInResponse_readWords {n : Nat} (name : BankName) (bank : Vector Word n) (c : FunctionCode) {off m : Nat} (s : State)
    (hrange : off + m ≤ n) (hfits : DataFits s.cfg.fn02RangeCheck (2 * m) c) :
    EndsInResponse s c.byte (readWords name bank c off m s) := by
  obtain ⟨data, ⟨hlen, -⟩, heq⟩ := readWords_spec name bank c s hrange
  rw [heq]
  exact endsInResponse_respond (.data rfl (hlen ▸ hfits))

/-- Without its range check, function 02 serves no more data than its byte count can tell (R143). -/
theorem endsInResponse_readGap {off m : Nat} {s : State} (hcheck : s.cfg.fn02RangeCheck = false) :
    EndsInResponse s FunctionCode.rdi.byte (readGap off m s) := by
  by_cases hbig : 255 < packedLen m ∨ s.cfg.maxFrameLen < 5 + packedLen m
  · simp [EndsInResponse, readGap, if_pos hbig]
  · obtain ⟨data, hlen, -, heq⟩ := readGap_spec (off := off) (m := m) s (by omega) (by omega)
    rw [heq]
    exact endsInResponse_respond (.data rfl ⟨by omega, by simp [hcheck]⟩)

theorem endsInResponse_writeDO {c : FunctionCode} (off q : Word) (bits : List Bool) (s : State) (hwrite : IsWriteFunction c) :
    EndsInResponse s c.byte (writeDO c off q bits s) := by
  unfold writeDO
  split
  case h_1 => exact endsInResponse_respond (.echo off q rfl hwrite)
  case h_2 => rintro u ⟨⟩

theorem endsInResponse_writeHR {c : FunctionCode} (off q : Word) (ws : List Word) (s : State) (hwrite : IsWriteFunction c) :
    EndsInResponse s c.byte (writeHR c off q ws s) := by
  unfold writeHR
  split
  case h_1 => exact endsInResponse_respond (.echo off q rfl hwrite)
  case h_2 => rintro u ⟨⟩

theorem endsInResponse_ite {p : Prop} [Decidable p] {s : State} {fc : Byte} {r1 r2 : Result}
    (h1 : p → EndsInResponse s fc r1) (h2 : ¬ p → EndsInResponse s fc r2) : EndsInResponse s fc (if p then r1 else r2) := by
  split
  case isTrue hp => exact h1 hp
  case isFalse hp => exact h2 hp

/-! ### Each handler -/

/-- A check that guards the rest of a handler: where it fails, the handler ends with an exception. -/
theorem endsInResponse_guard {p : Prop} [Decidable p] {s : State} {fc : Byte} {r : Result} (e : ExceptionCode)
    (h : p → EndsInResponse s fc r) : EndsInResponse s fc (if p then r else takeException fc e s) :=
  endsInResponse_ite h (fun _ => endsInResponse_takeException fc e s)

theorem packedLen_le_three_of_inRange {off n : Nat} (h : inRange 20 off n = true) : packedLen n ≤ 3 := by
  have hsum : off + n ≤ 20 := inRange_iff.mp h
  exact packedLen_le_iff.mpr (by omega)

theorem endsInResponse_execRdi (off n : Word) (s : State) : EndsInResponse s FunctionCode.rdi.byte (execRdi off n s) := by
  refine endsInResponse_ite (fun _ => endsInResponse_guard _ fun hr => ?_) (fun hcheck => ?_)
  · have hlen := packedLen_le_three_of_inRange hr
    exact endsInResponse_readBits _ _ _ s (inRange_iff.mp hr) ⟨by omega, fun _ => hlen⟩
  · exact endsInResponse_readGap (Bool.eq_false_iff.mpr hcheck)

/-- Function 04's count check leaves at least one register to serve, its range check at most twenty (R145). -/
theorem endsInResponse_execRir (off n : Word) (bc : Byte) (s : State) :
    EndsInResponse s FunctionCode.rir.byte (execRir off n bc s) := by
  refine endsInResponse_guard _ fun hcount => endsInResponse_guard _ fun hr => ?_
  obtain ⟨hpos, -, -⟩ := countOk_iff.mp hcount
  have hsum : off.toNat + n.toNat ≤ 20 := inRange_iff.mp hr
  exact endsInResponse_readWords _ _ _ s hsum ⟨by omega, by omega⟩

theorem endsInResponse_execWdon (off n : Word) (bc : Option Byte) (data : List Byte) (s : State) :
    EndsInResponse s FunctionCode.wdon.byte (execWdon off n bc data s) := by
  refine endsInResponse_guard _ fun _ => ?_
  split
  case h_1 bits _ => exact endsInResponse_writeDO off n bits s (by simp [IsWriteFunction])
  case h_2 => exact endsInResponse_dropShort s _

theorem endsInResponse_execWhrn (off n : Word) (bc : Byte) (data : List Byte) (s : State) :
    EndsInResponse s FunctionCode.whrn.byte (execWhrn off n bc data s) := by
  refine endsInResponse_guard _ fun _ => endsInResponse_guard _ fun _ => ?_
  split
  case h_1 ws _ => exact endsInResponse_writeHR off n ws s (by simp [IsWriteFunction])
  case h_2 => exact endsInResponse_dropShort s _

theorem endsInResponse_exec (i : Instr) (s : State) : EndsInResponse s i.fc (exec i s) := by
  cases i with
  | rdo off n =>
    exact endsInResponse_guard _ fun hr =>
      endsInResponse_readBits _ _ _ s (inRange_iff.mp hr) (packedLen_le_three_of_inRange hr)
  | rdi off n => exact endsInResponse_execRdi off n s
  | rhr off n =>
    refine endsInResponse_guard _ fun hr => ?_
    have hsum : off.toNat + n.toNat ≤ 10 := inRange_iff.mp hr
    exact endsInResponse_readWords _ _ _ s hsum (show 2 * n.toNat ≤ 20 by omega)
  | rir off n bc => exact endsInResponse_execRir off n bc s
  | wdo off v =>
    exact endsInResponse_guard _ fun _ => endsInResponse_guard _ fun _ =>
      endsInResponse_writeDO off v _ s (by simp [IsWriteFunction])
  | whr off v => exact endsInResponse_guard _ fun _ => endsInResponse_writeHR off v _ s (by simp [IsWriteFunction])
  | wdon off n bc data => exact endsInResponse_execWdon off n bc data s
  | whrn off n bc data => exact endsInResponse_execWhrn off n bc data s
  | illegal fc => exact endsInResponse_takeException fc _ s

/-- Every transaction ends with a response to the request's code. -/
theorem step_request_respondsTo {s t : State} {f : List Byte} (hoff : s.Offered f) (hstep : step s = .next t) :
    ∃ o, t.outcome = some o ∧ RespondsTo s (f.getD 1 0) o t.rsp := by
  obtain ⟨hhead, -, -⟩ := hoff
  obtain ⟨hnil, -⟩ | ⟨g, rest, hreq, -, -, htrans⟩ | ⟨rest, htaken, -⟩ | ⟨a, p, rest, hreset, -⟩ := step_next_cases hstep
  · simp [hnil] at hhead
  · obtain rfl : g = f := by simpa [hreq] using hhead
    obtain ⟨r, -, rfl⟩ | ⟨-, e, -, rfl⟩ | ⟨-, i, u, hd, hexec, rfl⟩ := htrans
    · exact ⟨.drop r, rfl, by rw [State.finish_rsp, State.sealed_rsp_dropped]; exact .silent r⟩
    · exact ⟨.drop .short, rfl, by rw [State.finish_rsp, State.sealed_rsp_dropped]; exact .silent .short⟩
    · obtain ⟨o, ho, hrsp⟩ := endsInResponse_exec i _ u hexec
      rw [fc_of_decode hd] at hrsp
      exact ⟨o, ho, hrsp.of_sameConfig ⟨rfl, rfl⟩⟩
  · simp [htaken] at hhead
  · simp [hreset] at hhead

/-! ### Lengths -/

theorem RespondsTo.length_of_drop {s : State} {fc : Byte} {r : DropReason} {rsp : List Byte}
    (h : RespondsTo s fc (.drop r) rsp) : rsp.length = 0 := by
  cases h
  rfl

theorem RespondsTo.length_of_exception {s : State} {fc : Byte} {e : ExceptionCode} {rsp : List Byte}
    (h : RespondsTo s fc (.exception e) rsp) : rsp.length = 5 := by
  cases h
  simp [length_sealFrame, exceptionBody]

theorem length_sealFrame_readBody (s : State) (fc : Byte) (data : List Byte) :
    (sealFrame (readBody s fc data)).length = 5 + data.length := by
  rw [length_sealFrame]
  simp [readBody]
  omega

/-- Byte 2 of a read response is its byte count, which tells the length of data that fits (R75). -/
theorem byteAt_two_sealFrame_readBody {check02 : Bool} {c : FunctionCode} {data : List Byte} (s : State) (fc : Byte)
    (hfits : DataFits check02 data.length c) : byteAt (sealFrame (readBody s fc data)) 2 = data.length := by
  have hlt : data.length < 256 := by
    cases c <;> simp only [DataFits] at hfits <;> omega
  simp [byteAt, sealFrame, readBody, Nat.mod_eq_of_lt hlt]

theorem length_sealFrame_echoBody (s : State) (fc : Byte) (off q : Word) : (sealFrame (echoBody s fc off q)).length = 8 := by
  rw [length_sealFrame]
  simp [echoBody]

/-- The lengths of normal responses, by the request's code (R128). -/
def NormalLengths (check02 : Bool) (fc : Nat) (rsp : List Byte) : Prop :=
  (fc ∈ [0x01, 0x02, 0x03, 0x04] → rsp.length = 5 + byteAt rsp 2) ∧
  (fc = 0x01 → 5 ≤ rsp.length ∧ rsp.length ≤ 8) ∧
  (fc = 0x02 → check02 = true → 5 ≤ rsp.length ∧ rsp.length ≤ 8) ∧
  (fc = 0x03 → 5 ≤ rsp.length ∧ rsp.length ≤ 25) ∧
  (fc = 0x04 → 7 ≤ rsp.length ∧ rsp.length ≤ 45) ∧
  (fc ∈ [0x05, 0x06, 0x0F, 0x10] → rsp.length = 8)

theorem normalLengths_data (s : State) (fc : Byte) {check02 : Bool} {c : FunctionCode} {data : List Byte}
    (hfits : DataFits check02 data.length c) :
    NormalLengths check02 c.byte.toNat (sealFrame (readBody s fc data)) := by
  rw [NormalLengths, byteAt_two_sealFrame_readBody s fc hfits, length_sealFrame_readBody]
  cases c with
  | rdo | rhr => simpa [FunctionCode.byte] using Nat.add_le_add_left hfits 5
  | rir =>
    obtain ⟨hleast, hmost⟩ := hfits
    simpa [FunctionCode.byte] using And.intro (Nat.add_le_add_left hleast 5) (Nat.add_le_add_left hmost 5)
  | rdi =>
    obtain ⟨-, hchecked⟩ := hfits
    simpa [FunctionCode.byte] using fun h => Nat.add_le_add_left (hchecked h) 5
  | _ => exact hfits.elim

theorem normalLengths_echo (s : State) (fc : Byte) (check02 : Bool) {c : FunctionCode} (off q : Word)
    (hwrite : IsWriteFunction c) : NormalLengths check02 c.byte.toNat (sealFrame (echoBody s fc off q)) := by
  rw [NormalLengths, length_sealFrame_echoBody]
  cases c with
  | wdo | whr | wdon | whrn => simp [FunctionCode.byte]
  | _ => simp [IsWriteFunction] at hwrite

theorem RespondsTo.normalLengths {s : State} {fc : Byte} {rsp : List Byte} (h : RespondsTo s fc .normal rsp) :
    NormalLengths s.cfg.fn02RangeCheck fc.toNat rsp := by
  cases h with
  | data hc hfits =>
    rw [hc]
    exact normalLengths_data s _ hfits
  | echo off q hc hwrite =>
    rw [hc]
    exact normalLengths_echo s _ _ off q hwrite

/-- With function 02's range check, twenty input registers are the longest data there is (R128). -/
theorem DataFits.le_forty {n : Nat} {c : FunctionCode} (h : DataFits true n c) : n ≤ 40 := by
  cases c <;> simp only [DataFits, true_imp_iff] at h <;> omega

theorem RespondsTo.length_le {s : State} {fc : Byte} {o : TxOutcome} {rsp : List Byte} (h : RespondsTo s fc o rsp)
    (hcheck : s.cfg.fn02RangeCheck = true) : rsp.length ≤ 45 := by
  cases h with
  | silent r => exact Nat.zero_le _
  | exception e => rw [RespondsTo.length_of_exception (.exception e)]; decide
  | data hc hfits =>
    rw [hcheck] at hfits
    have hlen := hfits.le_forty
    rw [length_sealFrame_readBody]
    omega
  | echo off q => rw [length_sealFrame_echoBody]; decide

/-- Settles O44: every transaction ends with one of four kinds of response, and each kind has its length. -/
theorem responseLengths : Obligations.ResponseLengths := by
  intro s t f hoff hstep
  obtain ⟨o, ho, hrsp⟩ := step_request_respondsTo hoff hstep
  rw [ho]
  refine ⟨hrsp.length_le, ?_, ?_, ?_⟩
  · rintro r ⟨⟩
    exact hrsp.length_of_drop
  · rintro e ⟨⟩
    exact hrsp.length_of_exception
  · rintro ⟨⟩
    exact hrsp.normalLengths

end Sys2Proof.Machine
end

/-! ## Packing a bank (R140) -/

section

namespace Sys2Proof.Machine

/-- Every element has its place in its own packed data, so UNPACK inverts PACK. -/
theorem unpackBits_packBits (bits : List Bool) : unpackBits bits.length (packBits bits) = some bits := by
  obtain ⟨bits', hunpack, hlen, hget⟩ := unpackBits_eq_some (length_packBits bits).ge
  have heq : bits' = bits := by
    refine List.ext_getElem? fun j => ?_
    by_cases hj : j < bits.length
    · have hplace : j < 8 * packedLen bits.length := hj.trans_le (packedLen_le_iff.mp le_rfl)
      rw [hget j hj, packedBit_packBits bits hplace]
      simp [hj]
    · rw [List.getElem?_eq_none (by omega), List.getElem?_eq_none (by omega)]
  rw [hunpack, heq]

/-- PACK of the elements a bank's read gives: they stand in order, and the padding after the last is 0 bits. -/
theorem packsBank_packBits {c : Nat} {bank : Vector Bool c} {off : Nat} {bits : List Bool}
    (hget : ∀ j, j < bits.length → bits[j]? = bankGet bank (off + 1 + j)) :
    PacksBank bank off bits.length (packBits bits) := by
  refine ⟨length_packBits bits, fun j hj => ?_⟩
  rw [length_packBits] at hj
  rw [packedBit_packBits bits hj]
  split
  next helem => rw [← hget j helem]; simp [helem]
  next hpad => simp [Nat.le_of_not_lt hpad]

/-- Settles O13: the layout bit by bit and its inverse, for the elements that a read in range gives. -/
theorem packLayout : Obligations.PackLayout := by
  refine ⟨fun c bank off n hrange => ?_, by decide⟩
  obtain ⟨bits, hread, rfl, hget⟩ := bankRead_spec bank hrange
  exact ⟨bits, hread, rfl, packsBank_packBits hget, unpackBits_packBits bits⟩

end Sys2Proof.Machine
end

/-! ## Unpacking the data of function 15 (R170) -/

section

namespace Sys2Proof.Machine

/-- UNPACK is a function of the packed bits it is asked for. -/
theorem unpackBits_congr {n : Nat} {d1 d2 : List Byte} (h : ∀ j, j < n → packedBit d1 j = packedBit d2 j) :
    unpackBits n d1 = unpackBits n d2 :=
  readAll_congr n h

/-- Function 15's data field runs from index 7 to the end of the payload (R73, R170). -/
theorem decode_wdon {f : List Byte} (hlen : 8 ≤ f.length) (hc : f.getD 1 0 = 0x0F) :
    decode f = .ok (.wdon (wordOf (f.getD 2 0) (f.getD 3 0)) (wordOf (f.getD 4 0) (f.getD 5 0)) (field f 6)
      ((payload f).drop 7)) := by
  have hwdon : FunctionCode.ofByte (f.getD 1 0) = some .wdon := ofByte_eq_some_iff.mpr hc
  rw [decode_of_eight_le_length hwdon hlen, decodeFields]

theorem exec_wdon (off n : Word) (bc : Option Byte) (data : List Byte) (s : State) :
    exec (.wdon off n bc data) s = execWdon off n bc data s := by
  rfl

/-- Function 15 in range but short of data changes no coil: it is dropped (R123, R173). -/
theorem execWdon_of_data_short {off n : Word} (bc : Option Byte) {data : List Byte} (s : State)
    (hrange : off.toNat + n.toNat ≤ capDO) (hshort : data.length < packedLen n.toNat) :
    execWdon off n bc data s = .next (s.dropped .short) := by
  rw [execWdon, if_pos (inRange_iff.mpr hrange), unpackBits_eq_none hshort, dropShort]

/-- The byte count is carried to the handler and not read there (R170, R173). -/
theorem execWdon_byteCount_irrelevant (off n : Word) (bc1 bc2 : Option Byte) (data : List Byte) (s : State) :
    execWdon off n bc1 data s = execWdon off n bc2 data s := by
  rw [execWdon, execWdon]

/-- Settles O14: UNPACK on enough data and on too little, the handler that drops the latter, where the parser finds the data,
and what neither the unpacked bits nor the handler depend on. -/
theorem unpackReadsExactlyItsBits : Obligations.UnpackReadsExactlyItsBits := by
  refine ⟨fun n data => unpackBits_eq_some, fun n data => unpackBits_eq_none, ?_, ?_, fun n d1 d2 => unpackBits_congr, ?_⟩
  · intro off n bc data s hrange hshort
    exact (exec_wdon off n bc data s).trans (execWdon_of_data_short bc s hrange hshort)
  · intro f hlen hc
    exact ⟨_, _, _, _, decode_wdon hlen hc, rfl⟩
  · intro off n bc1 bc2 data s
    rw [exec_wdon, exec_wdon]
    exact execWdon_byteCount_irrelevant off n bc1 bc2 data s

end Sys2Proof.Machine
end

/-! ## Exceptions, and what every transaction counts (R81, R203, R206, R210) -/

section

namespace Sys2Proof.Machine

/-! ### A handler writes a bank only where it ends normally (R175, R206) -/

/-- Where `r` is a next state other than a normal end, the handler that started in `s` changed the response alone. -/
def KeepsUnlessNormal (s : State) (r : Result) : Prop :=
  ∀ u, r = .next u → u.outcome ≠ some .normal → OnlyResponse s u

theorem keepsUnlessNormal_emit (s w : State) (body : List Byte) : KeepsUnlessNormal s (emit body w) := by
  rintro u ⟨⟩ hne
  exact absurd rfl hne

theorem keepsUnlessNormal_fault (s : State) (e : Fault) : KeepsUnlessNormal s (.fault e) := by
  rintro u ⟨⟩

theorem keepsUnlessNormal_refused (s : State) (e : Refusal) : KeepsUnlessNormal s (.refused e) := by
  rintro u ⟨⟩

theorem keepsUnlessNormal_dropShort (s : State) : KeepsUnlessNormal s (dropShort s) := by
  rintro u ⟨⟩ -
  rfl

theorem keepsUnlessNormal_takeException (fc : Byte) (e : ExceptionCode) (s : State) :
    KeepsUnlessNormal s (takeException fc e s) := by
  rintro u ⟨⟩ -
  rfl

theorem keepsUnlessNormal_readBits {n : Nat} (name : BankName) (bank : Vector Bool n) (c : FunctionCode) (off m : Nat)
    (s : State) : KeepsUnlessNormal s (readBits name bank c off m s) := by
  unfold readBits
  split
  case h_1 => exact keepsUnlessNormal_emit s s _
  case h_2 => exact keepsUnlessNormal_fault s _

theorem keepsUnlessNormal_readWords {n : Nat} (name : BankName) (bank : Vector Word n) (c : FunctionCode) (off m : Nat)
    (s : State) : KeepsUnlessNormal s (readWords name bank c off m s) := by
  unfold readWords
  split
  case h_1 => exact keepsUnlessNormal_emit s s _
  case h_2 => exact keepsUnlessNormal_fault s _

theorem keepsUnlessNormal_readGap (off m : Nat) (s : State) : KeepsUnlessNormal s (readGap off m s) := by
  unfold readGap
  split
  case isTrue => exact keepsUnlessNormal_refused s _
  case isFalse => exact keepsUnlessNormal_emit s _ _

theorem keepsUnlessNormal_writeDO (c : FunctionCode) (off q : Word) (bits : List Bool) (s : State) :
    KeepsUnlessNormal s (writeDO c off q bits s) := by
  unfold writeDO
  split
  case h_1 => exact keepsUnlessNormal_emit s _ _
  case h_2 => exact keepsUnlessNormal_fault s _

theorem keepsUnlessNormal_writeHR (c : FunctionCode) (off q : Word) (ws : List Word) (s : State) :
    KeepsUnlessNormal s (writeHR c off q ws s) := by
  unfold writeHR
  split
  case h_1 => exact keepsUnlessNormal_emit s _ _
  case h_2 => exact keepsUnlessNormal_fault s _

theorem keepsUnlessNormal_ite {p : Prop} [Decidable p] {s : State} {r1 r2 : Result} (h1 : KeepsUnlessNormal s r1)
    (h2 : KeepsUnlessNormal s r2) : KeepsUnlessNormal s (if p then r1 else r2) := by
  split
  case isTrue => exact h1
  case isFalse => exact h2

/-- A check that guards the rest of a handler: where it fails, the handler ends with an exception. -/
theorem keepsUnlessNormal_guard {p : Prop} [Decidable p] {s : State} {fc : Byte} {e : ExceptionCode} {r : Result}
    (h : KeepsUnlessNormal s r) : KeepsUnlessNormal s (if p then r else takeException fc e s) :=
  keepsUnlessNormal_ite h (keepsUnlessNormal_takeException fc e s)

theorem keepsUnlessNormal_execWdon (off n : Word) (bc : Option Byte) (data : List Byte) (s : State) :
    KeepsUnlessNormal s (execWdon off n bc data s) := by
  refine keepsUnlessNormal_guard ?_
  split
  case h_1 => exact keepsUnlessNormal_writeDO _ _ _ _ s
  case h_2 => exact keepsUnlessNormal_dropShort s

theorem keepsUnlessNormal_execWhrn (off n : Word) (bc : Byte) (data : List Byte) (s : State) :
    KeepsUnlessNormal s (execWhrn off n bc data s) := by
  refine keepsUnlessNormal_guard (keepsUnlessNormal_guard ?_)
  split
  case h_1 => exact keepsUnlessNormal_writeHR _ _ _ _ s
  case h_2 => exact keepsUnlessNormal_dropShort s

theorem keepsUnlessNormal_exec (i : Instr) (s : State) : KeepsUnlessNormal s (exec i s) := by
  cases i with
  | rdo off n => exact keepsUnlessNormal_guard (keepsUnlessNormal_readBits _ _ _ _ _ s)
  | rdi off n =>
    exact keepsUnlessNormal_ite (keepsUnlessNormal_guard (keepsUnlessNormal_readBits _ _ _ _ _ s))
      (keepsUnlessNormal_readGap _ _ s)
  | rhr off n => exact keepsUnlessNormal_guard (keepsUnlessNormal_readWords _ _ _ _ _ s)
  | rir off n bc => exact keepsUnlessNormal_guard (keepsUnlessNormal_guard (keepsUnlessNormal_readWords _ _ _ _ _ s))
  | wdo off v => exact keepsUnlessNormal_guard (keepsUnlessNormal_guard (keepsUnlessNormal_writeDO _ _ _ _ s))
  | whr off v => exact keepsUnlessNormal_guard (keepsUnlessNormal_writeHR _ _ _ _ s)
  | wdon off n bc data => exact keepsUnlessNormal_execWdon off n bc data s
  | whrn off n bc data => exact keepsUnlessNormal_execWhrn off n bc data s
  | illegal fc => exact keepsUnlessNormal_takeException fc _ s

/-! ### The state that a transaction seals and counts -/

/-- `u` is the transaction of the request `f` on the slave `s` just before its response is sealed and counted. -/
structure EndsTransaction (s : State) (f : List Byte) (u : State) : Prop where
  /-- No handler writes an input bank (R22, R24); COUNT is still to come (R210). -/
  inputs : u.DI = s.DI ∧ u.IR = s.IR
  /-- No handler writes the configuration (R27, R28). -/
  config : SameConfig s u
  /-- The request is still there, for COUNT to take its length (R20, R210). -/
  request : u.req = f
  /-- An output bank is written only on a normal end (R175, R206). -/
  outputs : u.outcome ≠ some .normal → u.DO = s.DO ∧ u.HR = s.HR

/-- The drop of a frame that fails validation (R106). -/
theorem endsTransaction_accept_dropped (s : State) (f : List Byte) (rest : List HostEvent) (r : DropReason) :
    EndsTransaction s f (((s.scheduled rest).accept f).dropped r) :=
  ⟨⟨rfl, rfl⟩, ⟨rfl, rfl⟩, rfl, fun _ => ⟨rfl, rfl⟩⟩

/-- The drop of a valid frame without an instruction (R123). -/
theorem endsTransaction_validated_dropped (s : State) (f : List Byte) (rest : List HostEvent) (r : DropReason) :
    EndsTransaction s f (((s.scheduled rest).accept f).validated.dropped r) :=
  ⟨⟨rfl, rfl⟩, ⟨rfl, rfl⟩, rfl, fun _ => ⟨rfl, rfl⟩⟩

/-- What a handler may have changed before it responds leaves the input banks, the configuration and the request. -/
theorem OnlyOutputsAndDraws.keeps {s w : State} (h : OnlyOutputsAndDraws s w) :
    (w.DI = s.DI ∧ w.IR = s.IR) ∧ SameConfig s w ∧ w.req = s.req := by
  rw [h]
  exact ⟨⟨rfl, rfl⟩, ⟨rfl, rfl⟩, rfl⟩

theorem OnlyResponse.sameOutputs {s u : State} (h : OnlyResponse s u) : u.DO = s.DO ∧ u.HR = s.HR := by
  rw [h]
  exact ⟨rfl, rfl⟩

theorem endsTransaction_of_exec {s u : State} {f : List Byte} {rest : List HostEvent} {i : Instr}
    (hexec : exec i (s.atHandler f rest) = .next u) : EndsTransaction s f u := by
  have houtputs (hne : u.outcome ≠ some .normal) : u.DO = s.DO ∧ u.HR = s.HR :=
    (keepsUnlessNormal_exec i _ u hexec hne).sameOutputs
  obtain rfl | ⟨w, o, code, tail, hw, rfl⟩ := endsHandler_exec i _ u hexec
  · exact ⟨⟨rfl, rfl⟩, ⟨rfl, rfl⟩, rfl, houtputs⟩
  · obtain ⟨hinputs, hconfig, hreq⟩ := hw.keeps
    exact ⟨hinputs, hconfig, hreq, houtputs⟩

/-- Every transaction, however it goes, ends in SEAL, COUNT and completion (R120, R210). -/
theorem step_request_finish {s t : State} {f : List Byte} (hoff : s.Offered f) (hstep : step s = .next t) :
    ∃ u, EndsTransaction s f u ∧ t = u.finish := by
  obtain ⟨hhead, -, -⟩ := hoff
  obtain ⟨hnil, -⟩ | ⟨g, rest, hreq, -, -, htrans⟩ | ⟨rest, htaken, -⟩ | ⟨a, p, rest, hreset, -⟩ := step_next_cases hstep
  · simp [hnil] at hhead
  · obtain rfl : g = f := by simpa [hreq] using hhead
    obtain ⟨r, -, rfl⟩ | ⟨-, e, -, rfl⟩ | ⟨-, i, u, -, hexec, rfl⟩ := htrans
    · exact ⟨_, endsTransaction_accept_dropped s g rest r, rfl⟩
    · exact ⟨_, endsTransaction_validated_dropped s g rest .short, rfl⟩
    · exact ⟨u, endsTransaction_of_exec hexec, rfl⟩
  · simp [htaken] at hhead
  · simp [hreset] at hhead

/-- Settles O46: COUNT runs on the input registers the request found, with its length and that of the sealed response. -/
theorem everyTransactionIsCounted : Obligations.EveryTransactionIsCounted := by
  intro s t f hok hoff hstep
  obtain ⟨u, ⟨⟨-, hIR⟩, ⟨-, hcfg⟩, hreq, -⟩, rfl⟩ := step_request_finish hoff hstep
  exact countersMoved_of_IR hok (by simp [hIR, hcfg, hreq])

/-! ### Bit 7 of a response's code -/

/-- The mark of an exception is bit 7 (R81). -/
theorem getLsbD_seven_or_0x80 (b : Byte) : (b ||| 0x80).getLsbD 7 = true := by
  simp

/-- A code that has bit 7 already is its own mark (R81). -/
theorem or_0x80_of_bit_seven {b : Byte} (h : b.getLsbD 7 = true) : b ||| 0x80 = b := by
  refine BitVec.eq_of_getLsbD_eq fun j hj => ?_
  by_cases h7 : j = 7
  · rw [h7, h, getLsbD_seven_or_0x80]
  · have hmask : (0x80 : Byte).getLsbD j = false := by
      rw [show (0x80 : Byte) = BitVec.twoPow 8 7 from rfl, BitVec.getLsbD_twoPow]
      simp [Ne.symm h7]
    rw [BitVec.getLsbD_or, hmask, Bool.or_false]

/-- The eight functions' codes have bit 7 clear (R78). -/
theorem getLsbD_seven_functionCode (c : FunctionCode) : c.byte.getLsbD 7 = false := by
  cases c <;> rfl

/-- A host that reads bit 7 of byte 1 tells a normal response from an exception (R203). -/
theorem RespondsTo.not_marksException {s : State} {fc : Byte} {rsp : List Byte} (h : RespondsTo s fc .normal rsp) :
    marksException rsp = false := by
  cases h with
  | @data c _ hc => rw [hc]; exact getLsbD_seven_functionCode c
  | @echo c _ _ hc => rw [hc]; exact getLsbD_seven_functionCode c

/-- An exception's response is five bytes, marked as one (R203). -/
theorem RespondsTo.eq_of_exception {s : State} {fc : Byte} {e : ExceptionCode} {rsp : List Byte}
    (h : RespondsTo s fc (.exception e) rsp) : rsp = sealFrame [s.slaveAddr, fc ||| 0x80, e.byte] := by
  cases h
  rfl

/-- Settles O42: the sealed body of R203, whose byte 1 is the code with bit 7 set; no normal response has that bit. -/
theorem exceptionResponseShape : Obligations.ExceptionResponseShape := by
  intro s t f hoff hstep
  obtain ⟨o, ho, hrsp⟩ := step_request_respondsTo hoff hstep
  rw [ho]
  constructor
  · rintro c ⟨⟩
    have heq := hrsp.eq_of_exception
    have hcode : t.rsp.getD 1 0 = f.getD 1 0 ||| 0x80 := by rw [heq]; rfl
    refine ⟨heq, hrsp.length_of_exception, ?_, fun h7 => hcode.trans (or_0x80_of_bit_seven h7)⟩
    rw [marksException, hcode]
    exact getLsbD_seven_or_0x80 _
  · rintro ⟨⟩
    exact hrsp.not_marksException

/-- Settles O43: the shape of O42, the count of O46, and nothing else changed by a handler that did not end normally. -/
theorem exceptionsArePrecise : Obligations.ExceptionsArePrecise := by
  intro s t f c hoff hok hstep hexc
  have hcount := everyTransactionIsCounted s t f hok hoff hstep
  obtain ⟨hshape, -⟩ := exceptionResponseShape s t f hoff hstep
  obtain ⟨heq, hlen, -, -⟩ := hshape c hexc
  rw [hlen] at hcount
  obtain ⟨u, ⟨⟨hDI, -⟩, hconfig, -, houtputs⟩, rfl⟩ := step_request_finish hoff hstep
  rw [State.finish_outcome] at hexc
  obtain ⟨hDO, hHR⟩ := houtputs (by simp [hexc])
  exact ⟨⟨hDO, hDI, hHR⟩, hconfig, hcount, heq⟩

end Sys2Proof.Machine
end

/-! ## Reset (R230) -/

section

namespace Sys2Proof.Machine

/-! ### The banks that reset derives -/

theorem isCounterSlot_iff {p : Config.Params} {k : Nat} :
    p.isCounterSlot k = true ↔ k = p.idxReqCount ∨ k = p.idxRxBytes ∨ k = p.idxTxBytes := by
  simp [Config.Params.isCounterSlot, or_assoc]

/-- An input register is 0 in a counter slot and its seed elsewhere. -/
theorem bankGet_seededIR (p : Config.Params) {k : Nat} (h1 : 1 ≤ k) (hcap : k ≤ capIR) :
    bankGet (seededIR p) k =
      if k = p.idxReqCount ∨ k = p.idxRxBytes ∨ k = p.idxTxBytes then some 0 else bankGet p.irSeed k := by
  obtain ⟨seed, hseed⟩ := bankGet_eq_some_of_mem p.irSeed h1 hcap
  rw [seededIR, bankGet_bankOf, if_pos ⟨h1, hcap⟩, hseed, apply_ite some]
  exact if_congr isCounterSlot_iff rfl rfl

/-- A discrete input is the parity of the input register of its index, which exists since the two banks are of one size. -/
theorem bankGet_derivedDI (p : Config.Params) (ir : Vector Word capIR) {k : Nat} (h1 : 1 ≤ k) (hcap : k ≤ capDI) :
    bankGet (derivedDI p ir) k = (bankGet ir k).map (parity p.diParity) := by
  obtain ⟨v, hv⟩ := bankGet_eq_some_of_mem ir h1 hcap
  rw [derivedDI, bankGet_bankOf, if_pos ⟨h1, hcap⟩, hv]
  rfl

/-! ### The state it leaves -/

@[simp] theorem State.reconstruct_DO (s : State) (a : Byte) (p : Config.Params) : (s.reconstruct a p).DO = p.doReset := rfl
@[simp] theorem State.reconstruct_DI (s : State) (a : Byte) (p : Config.Params) :
    (s.reconstruct a p).DI = derivedDI p (seededIR p) := rfl
@[simp] theorem State.reconstruct_HR (s : State) (a : Byte) (p : Config.Params) : (s.reconstruct a p).HR = p.hrReset := rfl
@[simp] theorem State.reconstruct_IR (s : State) (a : Byte) (p : Config.Params) : (s.reconstruct a p).IR = seededIR p := rfl
@[simp] theorem State.reconstruct_slaveAddr (s : State) (a : Byte) (p : Config.Params) : (s.reconstruct a p).slaveAddr = a := rfl
@[simp] theorem State.reconstruct_cfg (s : State) (a : Byte) (p : Config.Params) : (s.reconstruct a p).cfg = p := rfl
@[simp] theorem State.reconstruct_phase (s : State) (a : Byte) (p : Config.Params) : (s.reconstruct a p).phase = .idle := rfl

/-- A reset of an IDLE block with legal parameters is a step to the new construction (R230, R234). -/
theorem step_of_reset {s : State} {rest : List HostEvent} {a : Byte} {p : Config.Params} (hhost : s.host = .reset a p :: rest)
    (hidle : s.phase = .idle) (hok : p.ok = true) : step s = .next ((s.scheduled rest).reconstruct a p) := by
  simp [step, nextEvent, hhost, deliver, hidle, hok]

/-- Settles O56: the state after the step is the new construction, whose IR and DI are read element by element. -/
theorem resetEstablishes : Obligations.ResetEstablishes := by
  intro s rest a p hhost hidle hok
  refine ⟨_, step_of_reset hhost hidle hok, by simp, by simp [State.reqReady], by simp, by simp, by simp, by simp,
    fun k h1 h20 => ⟨?ir, ?di⟩⟩
  case ir =>
    rw [State.reconstruct_IR]
    exact bankGet_seededIR p h1 h20
  case di =>
    rw [State.reconstruct_DI, State.reconstruct_IR]
    exact bankGet_derivedDI p (seededIR p) h1 h20

end Sys2Proof.Machine
end

/-! ## An instruction's own frame (R71 to R74, R78) -/

section

namespace Sys2Proof.Machine

/-! ### Fixed values of the spec -/

/-- Settles O1: the four messages, the empty one among them, run through the generator. -/
theorem crcCheckValues : Obligations.CrcCheckValues := by
  refine ⟨rfl, ?_, ?_, ?_⟩ <;> decide +kernel

/-- Settles O7: each frame is closed, so the parser runs on it. -/
theorem writtenFramesDecode : Obligations.WrittenFramesDecode := by
  refine ⟨?_, ?_, ?_, ?_, ?_, ?_⟩ <;> decide

/-! ### The parser on a header followed by the rest of a frame -/

theorem length_header (fc : Byte) (off q : Word) : (header fc off q).length = 5 := rfl

theorem payload_append_pair (m : List Byte) (c0 c1 : Byte) : payload (m ++ [c0, c1]) = m := by
  simp [payload]

/-- The parser reads back the code, OFF and Q of a header that a trailer at least follows (R72, R124). -/
theorem decode_header (c : FunctionCode) (a : Byte) (off q : Word) {rest : List Byte} (hrest : 2 ≤ rest.length) :
    decode (a :: header c.byte off q ++ rest) = decodeFields c off q (a :: header c.byte off q ++ rest) := by
  have hlen : 8 ≤ (a :: header c.byte off q ++ rest).length := by
    simp [length_header]
    omega
  have hoff : wordOf (hiByte off) (loByte off) = off := wordOf_hiByte_loByte off
  have hq : wordOf (hiByte q) (loByte q) = q := wordOf_hiByte_loByte q
  calc decode (a :: header c.byte off q ++ rest)
    _ = decodeFields c (wordOf (hiByte off) (loByte off)) (wordOf (hiByte q) (loByte q)) (a :: header c.byte off q ++ rest) :=
      decode_of_eight_le_length (ofByte_byte c) hlen
    _ = decodeFields c off q (a :: header c.byte off q ++ rest) := by rw [hoff, hq]

/-- The fixed formats leave every payload byte after their last field unread (R71). -/
theorem decode_body_append {i : Instr} (a : Byte) (extra : List Byte) (c0 c1 : Byte) (hwf : i.wellFormed = true)
    (hwdon : ∀ off n bc data, i ≠ .wdon off n bc data) (hwhrn : ∀ off n bc data, i ≠ .whrn off n bc data) :
    decode (a :: i.body ++ extra ++ [c0, c1]) = .ok i := by
  have hfixed (c : FunctionCode) (off q : Word) :
      decode (a :: header c.byte off q ++ extra ++ [c0, c1]) =
        decodeFields c off q (a :: header c.byte off q ++ extra ++ [c0, c1]) := by
    rw [List.append_assoc]
    exact decode_header c a off q (by simp)
  cases i with
  | rdo off n => exact hfixed .rdo off n
  | rdi off n => exact hfixed .rdi off n
  | rhr off n => exact hfixed .rhr off n
  | wdo off v => exact hfixed .wdo off v
  | whr off v => exact hfixed .whr off v
  | rir off n bc =>
    have hframe : a :: (Instr.rir off n bc).body ++ extra ++ [c0, c1] =
        a :: header FunctionCode.rir.byte off n ++ (bc :: extra ++ [c0, c1]) := by simp [Instr.body]
    rw [hframe, decode_header .rir a off n (by simp)]
    rfl
  | illegal fc => exact decode_of_ofByte_eq_none (by simp [Instr.body]) (Option.isNone_iff_eq_none.mp hwf)
  | wdon off n bc data => exact absurd rfl (hwdon off n bc data)
  | whrn off n bc data => exact absurd rfl (hwhrn off n bc data)

/-- What functions 15 and 16 find after the header: the byte count at index 6, and the data from index 7 to the end of the
payload (R73). -/
theorem byteCount_and_data_after_header (a fc : Byte) (off q : Word) (bc : Byte) (data : List Byte) (c0 c1 : Byte) :
    field (a :: header fc off q ++ (bc :: data ++ [c0, c1])) 6 = some bc ∧
      (payload (a :: header fc off q ++ (bc :: data ++ [c0, c1]))).drop 7 = data := by
  constructor
  · rw [field_eq_some (by simp [length_header]; omega)]
    rfl
  · have hframe : a :: header fc off q ++ (bc :: data ++ [c0, c1]) = (a :: header fc off q ++ bc :: data) ++ [c0, c1] := by
      simp
    rw [hframe, payload_append_pair]
    rfl

theorem decode_body_wdon_some (a : Byte) (off n : Word) (bc : Byte) (data : List Byte) (c0 c1 : Byte) :
    decode (a :: (Instr.wdon off n (some bc) data).body ++ [c0, c1]) = .ok (.wdon off n (some bc) data) := by
  have hframe : a :: (Instr.wdon off n (some bc) data).body ++ [c0, c1] =
      a :: header FunctionCode.wdon.byte off n ++ (bc :: data ++ [c0, c1]) := by simp [Instr.body]
  obtain ⟨hbc, hdata⟩ := byteCount_and_data_after_header a FunctionCode.wdon.byte off n bc data c0 c1
  rw [hframe, decode_header .wdon a off n (by simp), decodeFields, hbc, hdata]

/-- Function 15 without a byte count has no data either: its frame is the header and the trailer. -/
theorem decode_body_wdon_none (a : Byte) (off n : Word) (c0 c1 : Byte) :
    decode (a :: (Instr.wdon off n none []).body ++ [c0, c1]) = .ok (.wdon off n none []) := by
  exact decode_header .wdon a off n (rest := [c0, c1]) le_rfl

theorem decode_body_whrn (a : Byte) (off n : Word) (bc : Byte) (data : List Byte) (c0 c1 : Byte) :
    decode (a :: (Instr.whrn off n bc data).body ++ [c0, c1]) = .ok (.whrn off n bc data) := by
  have hframe : a :: (Instr.whrn off n bc data).body ++ [c0, c1] =
      a :: header FunctionCode.whrn.byte off n ++ (bc :: data ++ [c0, c1]) := by simp [Instr.body]
  obtain ⟨hbc, hdata⟩ := byteCount_and_data_after_header a FunctionCode.whrn.byte off n bc data c0 c1
  rw [hframe, decode_header .whrn a off n (by simp), decodeFields, hbc, hdata]

/-- A well-formed instruction between an address and any two bytes is what the parser reads (R73). -/
theorem decode_body {i : Instr} (a c0 c1 : Byte) (hwf : i.wellFormed = true) :
    decode (a :: i.body ++ [c0, c1]) = .ok i := by
  cases i with
  | wdon off n bc data =>
    cases bc with
    | some bc => exact decode_body_wdon_some a off n bc data c0 c1
    | none =>
      obtain rfl : data = [] := List.isEmpty_iff.mp hwf
      exact decode_body_wdon_none a off n c0 c1
  | whrn off n bc data => exact decode_body_whrn a off n bc data c0 c1
  | _ => simpa using decode_body_append a [] c0 c1 hwf nofun nofun

theorem decode_encode (addr : Byte) {i : Instr} (hwf : i.wellFormed = true) : decode (encode addr i) = .ok i :=
  decode_body addr _ _ hwf

theorem exists_body_eq_fc_cons (i : Instr) : ∃ tail, i.body = i.fc :: tail := by
  cases i <;> exact ⟨_, rfl⟩

/-- Every body starts with a code, so the frame of an instruction is long enough, and it is at its address (R106). -/
theorem validate_encode (addr : Byte) (i : Instr) : validate addr (encode addr i) = none := by
  obtain ⟨tail, hbody⟩ := exists_body_eq_fc_cons i
  exact validate_sealFrame (b := addr :: i.body) (by simp [hbody]) rfl

/-- Settles O6: the parser reads each format back, and the validator passes what is sealed at its address. -/
theorem decodeEncodeRoundTrip : Obligations.DecodeEncodeRoundTrip :=
  fun addr i hwf => ⟨decode_encode addr hwf, validate_encode addr i⟩

/-- Settles O10: function 04's last field is byte 6 of the frame, trailer or not. -/
theorem readInputsByteCountIsRaw : Obligations.ReadInputsByteCountIsRaw := by
  intro f hlen hc
  have hrir : FunctionCode.ofByte (f.getD 1 0) = some .rir := ofByte_eq_some_iff.mpr hc
  exact ⟨_, _, decode_of_eight_le_length hrir hlen, fun h8 => by rw [h8]⟩

/-! ### Table rows -/

/-- The parser answers well-formed instructions only: a frame without byte 6 in its payload has no data either. -/
theorem wellFormed_of_decodeFields {c : FunctionCode} {off q : Word} {f : List Byte} {i : Instr}
    (h : decodeFields c off q f = .ok i) : i.wellFormed = true := by
  cases c with
  | wdon =>
    cases h
    by_cases hlen : f.length < 9
    · have hdata : (payload f).drop 7 = [] := List.drop_eq_nil_of_le (by simp [payload]; omega)
      rw [field_eq_none hlen, hdata]
      rfl
    · rw [field_eq_some (Nat.le_of_not_lt hlen)]
      rfl
  | whrn =>
    simp only [decodeFields] at h
    split at h
    · cases h; rfl
    · cases h
  | _ => cases h; rfl

theorem wellFormed_of_decode {f : List Byte} {i : Instr} (h : decode f = .ok i) : i.wellFormed = true := by
  unfold decode at h
  split at h
  · cases h
  · cases hc : FunctionCode.ofByte (f.getD 1 0) with
    | none =>
      simp only [hc] at h
      cases h
      exact Option.isNone_iff_eq_none.mpr hc
    | some c =>
      simp only [hc] at h
      split at h
      · exact wellFormed_of_decodeFields h
      · cases h

/-- From nine bytes on, every frame has an instruction: no field a handler reads before its first check is missing. -/
theorem exists_decode_eq_ok {f : List Byte} (hlen : 9 ≤ f.length) : ∃ i, decode f = .ok i := by
  cases hc : FunctionCode.ofByte (f.getD 1 0) with
  | none => exact ⟨_, decode_of_ofByte_eq_none (by omega) hc⟩
  | some c =>
    rw [decode_of_eight_le_length hc (by omega)]
    exact exists_decodeFields_eq_ok c _ _ (fun _ => hlen)

/-- The frame of a row word of one byte: that byte and zeros up to byte 6. -/
theorem tableFrame_byte (a b : Byte) : tableFrame a 8 b.toNat = sealFrame [a, b, 0, 0, 0, 0, 0] := by
  have hb : b.toNat % 2 ^ 8 = b.toNat := Nat.mod_eq_of_lt b.isLt
  have hzero : b.toNat / 256 = 0 := Nat.div_eq_of_lt b.isLt
  rw [tableFrame, hb]
  simp [wordBytes, hzero]

/-- Settles O12: a row's frame has nine bytes, so the parser answers, with byte 1 as the code. -/
theorem tableWordsDecode : Obligations.TableWordsDecode := by
  intro b
  obtain ⟨i, hi⟩ := exists_decode_eq_ok (f := tableFrame 0 8 b.toNat) (by simp [tableFrame_byte, length_sealFrame])
  refine ⟨i, by rw [decodeTableWord, hi]; rfl, ?_, wellFormed_of_decode hi⟩
  rw [fc_of_decode hi, tableFrame_byte]
  rfl

end Sys2Proof.Machine
end

/-! ## What each handler does with its operands (R125, R141 to R145, R171 to R174, R202) -/

section

namespace Sys2Proof

open Sys2Proof.Machine

/-! ### The checks of an instruction, in the order its handler makes them (R204) -/

/-- The count check of functions 04 and 16 and the value check of function 05 (the column of 0x03 in R202). -/
def Instr.valueRejected : Instr → Bool
  | .rir _ n bc => !countOk n bc
  | .whrn _ n bc _ => !countOk n bc
  | .wdo _ v => !decide (v = coilOn ∨ v = coilOff)
  | .rdo _ _ | .rdi _ _ | .rhr _ _ | .whr _ _ | .wdon _ _ _ _ | .illegal _ => false

/-- The range check (the column of 0x02 in R202); function 02 has one only where `check02` is true (R143). -/
def Instr.rangeRejected (check02 : Bool) : Instr → Bool
  | .rdo off n => !inRange capDO off.toNat n.toNat
  | .rdi off n => check02 && !inRange capDI off.toNat n.toNat
  | .rhr off n => !inRange capHR off.toNat n.toNat
  | .rir off n _ => !inRange capIR off.toNat n.toNat
  | .wdo off _ => !inRange capDO off.toNat 1
  | .whr off _ => !inRange capHR off.toNat 1
  | .wdon off n _ _ => !inRange capDO off.toNat n.toNat
  | .whrn off n _ _ => !inRange capHR off.toNat n.toNat
  | .illegal _ => false

/-- Is the data field of function 15 or 16 too short (R123, R170, R174)? -/
def Instr.dataShort : Instr → Bool
  | .wdon _ n _ data => decide (data.length < packedLen n.toNat)
  | .whrn _ n _ data => decide (data.length < 2 * n.toNat)
  | .rdo _ _ | .rdi _ _ | .rhr _ _ | .rir _ _ _ | .wdo _ _ | .whr _ _ | .illegal _ => false

end Sys2Proof

namespace Sys2Proof.Machine

/-! ### The handlers where a check fails -/

theorem exec_of_valueRejected {i : Instr} (s : State) (hv : i.valueRejected = true) :
    exec i s = takeException i.fc .illegalDataValue s := by
  cases i with
  | rir off n bc | whrn off n bc data => exact if_neg (by simpa [Instr.valueRejected] using hv)
  | wdo off v => exact if_neg (by simpa [Instr.valueRejected] using hv)
  | _ => simp [Instr.valueRejected] at hv

theorem exec_of_rangeRejected {i : Instr} {s : State} (hv : i.valueRejected = false)
    (hr : i.rangeRejected s.cfg.fn02RangeCheck = true) : exec i s = takeException i.fc .illegalDataAddress s := by
  cases i with
  | rdo off n | rhr off n | whr off n | wdon off n bc data => exact if_neg (by simpa [Instr.rangeRejected] using hr)
  | rdi off n =>
    simp only [Instr.rangeRejected, Bool.and_eq_true, Bool.not_eq_true'] at hr
    obtain ⟨hcheck, hrange⟩ := hr
    exact (if_pos hcheck).trans (if_neg (by simp [hrange]))
  | rir off n bc | whrn off n bc data | wdo off v =>
    simp only [Instr.valueRejected, Bool.not_eq_false'] at hv
    simp only [Instr.rangeRejected, Bool.not_eq_true'] at hr
    exact (if_pos (by simpa using hv)).trans (if_neg (by simp [hr]))
  | illegal fc => simp [Instr.rangeRejected] at hr

theorem exec_of_dataShort {i : Instr} {s : State} (hv : i.valueRejected = false)
    (hr : i.rangeRejected s.cfg.fn02RangeCheck = false) (hd : i.dataShort = true) : exec i s = .next (s.dropped .short) := by
  cases i with
  | wdon off n bc data =>
    simp only [Instr.rangeRejected, Bool.not_eq_false', inRange_iff] at hr
    exact execWdon_of_data_short bc s hr (of_decide_eq_true hd)
  | whrn off n bc data =>
    simp only [Instr.valueRejected, Bool.not_eq_false'] at hv
    simp only [Instr.rangeRejected, Bool.not_eq_false'] at hr
    have hnone : dataWords n.toNat data = none := dataWords_eq_none (of_decide_eq_true hd)
    simp [exec, execWhrn, hv, hr, hnone, dropShort]
  | _ => simp [Instr.dataShort] at hd

/-! ### The read functions within their range -/

theorem exec_rdo (off n : Word) (s : State) (hr : off.toNat + n.toNat ≤ capDO) :
    ∃ data, PacksBank s.DO off.toNat n.toNat data ∧
      exec (.rdo off n) s = .next (s.respond .normal (readBody s 0x01 data)) := by
  obtain ⟨data, hdata, hread⟩ := readBits_spec .DO s.DO .rdo s hr
  exact ⟨data, hdata, (if_pos (inRange_iff.mpr hr)).trans hread⟩

theorem exec_rdi (off n : Word) (s : State) (hcheck : s.cfg.fn02RangeCheck = true) (hr : off.toNat + n.toNat ≤ capDI) :
    ∃ data, PacksBank s.DI off.toNat n.toNat data ∧
      exec (.rdi off n) s = .next (s.respond .normal (readBody s 0x02 data)) := by
  obtain ⟨data, hdata, hread⟩ := readBits_spec .DI s.DI .rdi s hr
  exact ⟨data, hdata, (if_pos hcheck).trans ((if_pos (inRange_iff.mpr hr)).trans hread)⟩

/-- `data` is what function 02 without its range check serves: the input where there is one, else a free bit, and 0 bits of
padding (R143). -/
def PacksGap (s : State) (off n : Nat) (data : List Byte) : Prop :=
  data.length = packedLen n ∧
  ∀ j, j < 8 * data.length → packedBit data j = some (if j < n then gapBit s off j else false)

theorem exec_rdi_gap (off n : Word) (s : State) (hcheck : s.cfg.fn02RangeCheck = false) :
    exec (.rdi off n) s = readGap off.toNat n.toNat s :=
  if_neg (by simp [hcheck])

theorem exec_rdi_gap_oversize (off n : Word) (s : State) (hcheck : s.cfg.fn02RangeCheck = false)
    (hbig : 255 < packedLen n.toNat ∨ s.cfg.maxFrameLen < 5 + packedLen n.toNat) :
    exec (.rdi off n) s = .refused .oversizeDiscreteRead :=
  (exec_rdi_gap off n s hcheck).trans (if_pos hbig)

theorem exec_rdi_gap_fits (off n : Word) (s : State) (hcheck : s.cfg.fn02RangeCheck = false)
    (hbc : packedLen n.toNat ≤ 255) (hfits : 5 + packedLen n.toNat ≤ s.cfg.maxFrameLen) :
    ∃ data, PacksGap s off.toNat n.toNat data ∧
      exec (.rdi off n) s = .next ((s.drew n.toNat).respond .normal (readBody s 0x02 data)) := by
  obtain ⟨data, hlen, hdata, hread⟩ := readGap_spec (off := off.toNat) s hbc hfits
  exact ⟨data, ⟨hlen, hdata⟩, (exec_rdi_gap off n s hcheck).trans hread⟩

theorem exec_rhr (off n : Word) (s : State) (hr : off.toNat + n.toNat ≤ capHR) :
    ∃ data, ServesBank s.HR off.toNat n.toNat data ∧
      exec (.rhr off n) s = .next (s.respond .normal (readBody s 0x03 data)) := by
  obtain ⟨data, hdata, hread⟩ := readWords_spec .HR s.HR .rhr s hr
  exact ⟨data, hdata, (if_pos (inRange_iff.mpr hr)).trans hread⟩

theorem exec_rir (off n : Word) (bc : Byte) (s : State) (hcount : countOk n bc = true) (hr : off.toNat + n.toNat ≤ capIR) :
    ∃ data, ServesBank s.IR off.toNat n.toNat data ∧
      exec (.rir off n bc) s = .next (s.respond .normal (readBody s 0x04 data)) := by
  obtain ⟨data, hdata, hread⟩ := readWords_spec .IR s.IR .rir s hr
  exact ⟨data, hdata, (if_pos hcount).trans ((if_pos (inRange_iff.mpr hr)).trans hread)⟩

/-! ### The write functions within their range -/

/-- A bank after a write of the elements off+1 .. off+n, element j of them answered by `f`; every other element is as before. -/
def WroteBank {α : Type} {c : Nat} (bank bank' : Vector α c) (off n : Nat) (f : Nat → Option α) : Prop :=
  ∀ k, bankGet bank' k = if off + 1 ≤ k ∧ k ≤ off + n then f (k - (off + 1)) else bankGet bank k

/-- A written element reads as written. -/
theorem WroteBank.get {α : Type} {c : Nat} {bank bank' : Vector α c} {off n : Nat} {f : Nat → Option α}
    (h : WroteBank bank bank' off n f) {j : Nat} (hj : j < n) : bankGet bank' (off + 1 + j) = f j := by
  rw [h, if_pos (by omega), Nat.add_sub_cancel_left]

/-- A write of one element. -/
theorem WroteBank.get_one {α : Type} {c : Nat} {bank bank' : Vector α c} {off : Nat} {v : α}
    (h : WroteBank bank bank' off 1 (fun _ => some v)) (k : Nat) :
    bankGet bank' k = if k = off + 1 then some v else bankGet bank k :=
  (h k).trans (if_congr (by omega) rfl rfl)

/-- It depends on the answers within the range alone. -/
theorem WroteBank.congr {α : Type} {c : Nat} {bank bank' : Vector α c} {off n : Nat} {f g : Nat → Option α}
    (h : WroteBank bank bank' off n f) (hfg : ∀ j, j < n → f j = g j) : WroteBank bank bank' off n g := by
  intro k
  rw [h k]
  split
  next hk => exact hfg _ (by omega)
  next => rfl

theorem exec_wdo (off v : Word) (s : State) (hv : v = coilOn ∨ v = coilOff) (hr : off.toNat + 1 ≤ capDO) :
    ∃ bank, WroteBank s.DO bank off.toNat 1 (fun _ => some (decide (v = coilOn))) ∧
      exec (.wdo off v) s = .next ((s.setDO bank).respond .normal (echoBody s 0x05 off v)) := by
  obtain ⟨bank, hwrite, hbank⟩ := writeDO_spec .wdo off v [decide (v = coilOn)] s hr
  have hwrote : WroteBank s.DO bank off.toNat 1 (fun j => [decide (v = coilOn)][j]?) := hbank
  refine ⟨bank, hwrote.congr fun j hj => ?_, (if_pos hv).trans ((if_pos (inRange_iff.mpr hr)).trans hwrite)⟩
  simp [Nat.lt_one_iff.mp hj]

theorem exec_whr (off v : Word) (s : State) (hr : off.toNat + 1 ≤ capHR) :
    ∃ bank, WroteBank s.HR bank off.toNat 1 (fun _ => some v) ∧
      exec (.whr off v) s = .next ((s.setHR bank).respond .normal (echoBody s 0x06 off v)) := by
  obtain ⟨bank, hwrite, hbank⟩ := writeHR_spec .whr off v [v] s hr
  have hwrote : WroteBank s.HR bank off.toNat 1 (fun j => [v][j]?) := hbank
  refine ⟨bank, hwrote.congr fun j hj => ?_, (if_pos (inRange_iff.mpr hr)).trans hwrite⟩
  simp [Nat.lt_one_iff.mp hj]

theorem exec_wdon_in_range (off n : Word) (bc : Option Byte) (data : List Byte) (s : State)
    (hr : off.toNat + n.toNat ≤ capDO) (hd : packedLen n.toNat ≤ data.length) :
    ∃ bank, WroteBank s.DO bank off.toNat n.toNat (packedBit data) ∧
      exec (.wdon off n bc data) s = .next ((s.setDO bank).respond .normal (echoBody s 0x0F off n)) := by
  obtain ⟨bits, hbits, hlen, hget⟩ := unpackBits_eq_some hd
  obtain ⟨bank, hwrite, hbank⟩ := writeDO_spec .wdon off n bits s (by rw [hlen]; exact hr)
  have hwrote : WroteBank s.DO bank off.toNat n.toNat (fun j => bits[j]?) := hlen ▸ hbank
  refine ⟨bank, hwrote.congr hget, ?_⟩
  rw [exec_wdon, execWdon, if_pos (inRange_iff.mpr hr), hbits]
  exact hwrite

theorem exec_whrn_in_range (off n : Word) (bc : Byte) (data : List Byte) (s : State) (hcount : countOk n bc = true)
    (hr : off.toNat + n.toNat ≤ capHR) (hd : 2 * n.toNat ≤ data.length) :
    ∃ bank, WroteBank s.HR bank off.toNat n.toNat (dataWord data) ∧
      exec (.whrn off n bc data) s = .next ((s.setHR bank).respond .normal (echoBody s 0x10 off n)) := by
  obtain ⟨ws, hws, hlen, hget⟩ := dataWords_eq_some hd
  obtain ⟨bank, hwrite, hbank⟩ := writeHR_spec .whrn off n ws s (by rw [hlen]; exact hr)
  have hwrote : WroteBank s.HR bank off.toNat n.toNat (fun j => ws[j]?) := hlen ▸ hbank
  refine ⟨bank, hwrote.congr hget, ?_⟩
  have hexec : exec (.whrn off n bc data) s = writeHR .whrn off n ws s := by
    simp only [exec, execWhrn, if_pos hcount, if_pos (inRange_iff.mpr hr), hws]
  rw [hexec]
  exact hwrite

/-! ### Every handler -/

/-- The normal end of the handler of an instruction: what it serves or writes, and with which response. -/
inductive NormalEnd (s : State) : Instr → State → Prop where
  | rdo {off n : Word} {data : List Byte} (hr : off.toNat + n.toNat ≤ capDO)
      (hdata : PacksBank s.DO off.toNat n.toNat data) :
      NormalEnd s (.rdo off n) (s.respond .normal (readBody s 0x01 data))
  | rdi {off n : Word} {data : List Byte} (hr : off.toNat + n.toNat ≤ capDI)
      (hdata : PacksBank s.DI off.toNat n.toNat data) (hcheck : s.cfg.fn02RangeCheck = true) :
      NormalEnd s (.rdi off n) (s.respond .normal (readBody s 0x02 data))
  | rdiGap {off n : Word} {data : List Byte} (hfits : 5 + packedLen n.toNat ≤ s.cfg.maxFrameLen)
      (hdata : PacksGap s off.toNat n.toNat data) (hcheck : s.cfg.fn02RangeCheck = false) :
      NormalEnd s (.rdi off n) ((s.drew n.toNat).respond .normal (readBody s 0x02 data))
  | rhr {off n : Word} {data : List Byte} (hr : off.toNat + n.toNat ≤ capHR)
      (hdata : ServesBank s.HR off.toNat n.toNat data) :
      NormalEnd s (.rhr off n) (s.respond .normal (readBody s 0x03 data))
  | rir {off n : Word} {bc : Byte} {data : List Byte} (hr : off.toNat + n.toNat ≤ capIR)
      (hdata : ServesBank s.IR off.toNat n.toNat data) :
      NormalEnd s (.rir off n bc) (s.respond .normal (readBody s 0x04 data))
  | wdo {off v : Word} {bank : Vector Bool capDO} (hr : off.toNat + 1 ≤ capDO)
      (hbank : WroteBank s.DO bank off.toNat 1 (fun _ => some (decide (v = coilOn)))) :
      NormalEnd s (.wdo off v) ((s.setDO bank).respond .normal (echoBody s 0x05 off v))
  | whr {off v : Word} {bank : Vector Word capHR} (hr : off.toNat + 1 ≤ capHR)
      (hbank : WroteBank s.HR bank off.toNat 1 (fun _ => some v)) :
      NormalEnd s (.whr off v) ((s.setHR bank).respond .normal (echoBody s 0x06 off v))
  | wdon {off n : Word} {bc : Option Byte} {data : List Byte} {bank : Vector Bool capDO}
      (hr : off.toNat + n.toNat ≤ capDO) (hbank : WroteBank s.DO bank off.toNat n.toNat (packedBit data)) :
      NormalEnd s (.wdon off n bc data) ((s.setDO bank).respond .normal (echoBody s 0x0F off n))
  | whrn {off n : Word} {bc : Byte} {data : List Byte} {bank : Vector Word capHR}
      (hr : off.toNat + n.toNat ≤ capHR) (hd : 2 * n.toNat ≤ data.length)
      (hbank : WroteBank s.HR bank off.toNat n.toNat (dataWord data)) :
      NormalEnd s (.whrn off n bc data) ((s.setHR bank).respond .normal (echoBody s 0x10 off n))

/-- The oversize read of function 02 that R143 gives no meaning. -/
def OversizeRead (s : State) (i : Instr) : Prop :=
  ∃ off n, i = .rdi off n ∧ s.cfg.fn02RangeCheck = false ∧
    (255 < packedLen n.toNat ∨ s.cfg.maxFrameLen < 5 + packedLen n.toNat)

/-- How the handler of an instruction ends: by the first check that fails, in the order of R204, or normally. -/
inductive HandlerEnd (s : State) (i : Instr) : Result → Prop where
  | illegal {fc : Byte} (hi : i = .illegal fc) : HandlerEnd s i (takeException fc .illegalFunction s)
  | value (hv : i.valueRejected = true) : HandlerEnd s i (takeException i.fc .illegalDataValue s)
  | range (hv : i.valueRejected = false) (hr : i.rangeRejected s.cfg.fn02RangeCheck = true) :
      HandlerEnd s i (takeException i.fc .illegalDataAddress s)
  | short (hv : i.valueRejected = false) (hr : i.rangeRejected s.cfg.fn02RangeCheck = false) (hd : i.dataShort = true) :
      HandlerEnd s i (.next (s.dropped .short))
  | oversize (hbig : OversizeRead s i) : HandlerEnd s i (.refused .oversizeDiscreteRead)
  | normal {t : State} (hv : i.valueRejected = false) (hr : i.rangeRejected s.cfg.fn02RangeCheck = false)
      (hd : i.dataShort = false) (hend : NormalEnd s i t) : HandlerEnd s i (.next t)

/-- An instruction that passes all its checks ends normally. -/
theorem exists_normalEnd {i : Instr} {s : State} (hill : ∀ fc, i ≠ .illegal fc) (hv : i.valueRejected = false)
    (hr : i.rangeRejected s.cfg.fn02RangeCheck = false) (hd : i.dataShort = false) (hbig : ¬ OversizeRead s i) :
    ∃ t, exec i s = .next t ∧ NormalEnd s i t := by
  cases i with
  | rdo off n =>
    have hin : off.toNat + n.toNat ≤ capDO := by simpa [Instr.rangeRejected, inRange] using hr
    obtain ⟨data, hdata, hexec⟩ := exec_rdo off n s hin
    exact ⟨_, hexec, .rdo hin hdata⟩
  | rdi off n =>
    cases hcheck : s.cfg.fn02RangeCheck with
    | true =>
      have hin : off.toNat + n.toNat ≤ capDI := by simpa [Instr.rangeRejected, inRange, hcheck] using hr
      obtain ⟨data, hdata, hexec⟩ := exec_rdi off n s hcheck hin
      exact ⟨_, hexec, .rdi hin hdata hcheck⟩
    | false =>
      have hno : ¬ (255 < packedLen n.toNat ∨ s.cfg.maxFrameLen < 5 + packedLen n.toNat) :=
        fun h => hbig ⟨off, n, rfl, hcheck, h⟩
      obtain ⟨data, hdata, hexec⟩ := exec_rdi_gap_fits off n s hcheck (by omega) (by omega)
      exact ⟨_, hexec, .rdiGap (by omega) hdata hcheck⟩
  | rhr off n =>
    have hin : off.toNat + n.toNat ≤ capHR := by simpa [Instr.rangeRejected, inRange] using hr
    obtain ⟨data, hdata, hexec⟩ := exec_rhr off n s hin
    exact ⟨_, hexec, .rhr hin hdata⟩
  | rir off n bc =>
    have hin : off.toNat + n.toNat ≤ capIR := by simpa [Instr.rangeRejected, inRange] using hr
    obtain ⟨data, hdata, hexec⟩ := exec_rir off n bc s (by simpa [Instr.valueRejected] using hv) hin
    exact ⟨_, hexec, .rir hin hdata⟩
  | wdo off v =>
    have hin : off.toNat + 1 ≤ capDO := by simpa [Instr.rangeRejected, inRange] using hr
    have hval : v = coilOn ∨ v = coilOff := by simpa only [Instr.valueRejected, Bool.not_eq_false', decide_eq_true_eq] using hv
    obtain ⟨bank, hbank, hexec⟩ := exec_wdo off v s hval hin
    exact ⟨_, hexec, .wdo hin hbank⟩
  | whr off v =>
    have hin : off.toNat + 1 ≤ capHR := by simpa [Instr.rangeRejected, inRange] using hr
    obtain ⟨bank, hbank, hexec⟩ := exec_whr off v s hin
    exact ⟨_, hexec, .whr hin hbank⟩
  | wdon off n bc data =>
    have hin : off.toNat + n.toNat ≤ capDO := by simpa [Instr.rangeRejected, inRange] using hr
    obtain ⟨bank, hbank, hexec⟩ := exec_wdon_in_range off n bc data s hin (by simpa [Instr.dataShort] using hd)
    exact ⟨_, hexec, .wdon hin hbank⟩
  | whrn off n bc data =>
    have hin : off.toNat + n.toNat ≤ capHR := by simpa [Instr.rangeRejected, inRange] using hr
    have hlen : 2 * n.toNat ≤ data.length := by simpa [Instr.dataShort] using hd
    obtain ⟨bank, hbank, hexec⟩ := exec_whrn_in_range off n bc data s (by simpa [Instr.valueRejected] using hv) hin hlen
    exact ⟨_, hexec, .whrn hin hlen hbank⟩
  | illegal fc => exact absurd rfl (hill fc)

/-- What each handler answers, said once for all instructions and states. -/
theorem handlerEnd_exec (i : Instr) (s : State) : HandlerEnd s i (exec i s) := by
  by_cases hill : ∃ fc, i = .illegal fc
  · obtain ⟨fc, rfl⟩ := hill
    exact .illegal rfl
  cases hv : i.valueRejected with
  | true => rw [exec_of_valueRejected s hv]; exact .value hv
  | false =>
    cases hr : i.rangeRejected s.cfg.fn02RangeCheck with
    | true => rw [exec_of_rangeRejected hv hr]; exact .range hv hr
    | false =>
      cases hd : i.dataShort with
      | true => rw [exec_of_dataShort hv hr hd]; exact .short hv hr hd
      | false =>
        by_cases hbig : OversizeRead s i
        · obtain ⟨off, n, rfl, hcheck, hlen⟩ := hbig
          rw [exec_rdi_gap_oversize off n s hcheck hlen]
          exact .oversize ⟨off, n, rfl, hcheck, hlen⟩
        · obtain ⟨t, hexec, hend⟩ := exists_normalEnd (not_exists.mp hill) hv hr hd hbig
          rw [hexec]
          exact .normal hv hr hd hend

end Sys2Proof.Machine
end

/-! ## The functions: results, exceptions and drops (R71, R81, R125, R175, R202) -/

section

namespace Sys2Proof.Machine

/-! ### Normal ends of the read functions -/

/-- Settles O15: the handler of a range that passes its check. -/
theorem rdoReadsCoils : Obligations.RdoReadsCoils := by
  intro off n s hr
  obtain ⟨data, hdata, hexec⟩ := exec_rdo off n s hr
  exact ⟨_, data, hexec, hdata, answers_respond _ _ _, onlyResponse_respond _ _ _⟩

/-- Settles O16: the same of the discrete inputs, under the range check. -/
theorem rdiReadsInputs : Obligations.RdiReadsInputs := by
  intro off n s hcheck hr
  obtain ⟨data, hdata, hexec⟩ := exec_rdi off n s hcheck hr
  exact ⟨_, data, hexec, hdata, answers_respond _ _ _, onlyResponse_respond _ _ _⟩

/-- Settles O17: the draws of the gap come before the two of the reserved slots. -/
theorem rdiGapDraws : Obligations.RdiGapDraws := by
  intro off n s hcheck hbc hfits
  obtain ⟨data, ⟨hlen, hbits⟩, hexec⟩ := exec_rdi_gap_fits off n s hcheck hbc hfits
  refine ⟨_, data, hexec, hlen, hbits, answers_respond _ _ _, rfl, ?_⟩
  simp

/-- Settles O18: what can be held is served, so only the rest is refused. -/
theorem rdiGapOversizeRefused : Obligations.RdiGapOversizeRefused := by
  intro off n s hcheck
  refine ⟨fun href => ?_, exec_rdi_gap_oversize off n s hcheck⟩
  by_contra hno
  obtain ⟨data, -, hexec⟩ := exec_rdi_gap_fits off n s hcheck (by omega) (by omega)
  simp [hexec] at href

/-- Settles O19: a range of ten registers at most passes its check. -/
theorem rhrReadsHoldings : Obligations.RhrReadsHoldings := by
  intro off n s hr
  obtain ⟨data, hdata, hexec⟩ := exec_rhr off n s hr
  exact ⟨_, data, hexec, hdata, answers_respond _ _ _, onlyResponse_respond _ _ _⟩

/-- Settles O20: twenty registers are within the count check's bound. -/
theorem rirReadsInputRegisters : Obligations.RirReadsInputRegisters := by
  intro off n bc s hpos hbc hr
  obtain ⟨data, hdata, hexec⟩ := exec_rir off n bc s (countOk_iff.mpr ⟨hpos, by omega, hbc⟩) hr
  exact ⟨_, data, hexec, hdata, answers_respond _ _ _, onlyResponse_respond _ _ _⟩

/-! ### Normal ends of the write functions -/

theorem onlyResponseAndDO_respond (s : State) (bank : Vector Bool capDO) (o : TxOutcome) (body : List Byte) :
    OnlyResponseAndDO s ((s.setDO bank).respond o body) := rfl

theorem onlyResponseAndHR_respond (s : State) (bank : Vector Word capHR) (o : TxOutcome) (body : List Byte) :
    OnlyResponseAndHR s ((s.setHR bank).respond o body) := rfl

/-- Settles O21: the write of a range of one coil. -/
theorem wdoWritesOneCoil : Obligations.WdoWritesOneCoil := by
  intro off v s hv hr
  obtain ⟨bank, hbank, hexec⟩ := exec_wdo off v s hv hr
  exact ⟨_, hexec, answers_respond _ _ _, onlyResponseAndDO_respond s bank _ _, hbank.get_one⟩

/-- Settles O22: the write of a range of one register, which has no value check. -/
theorem whrWritesOneRegister : Obligations.WhrWritesOneRegister := by
  intro off v s hr
  obtain ⟨bank, hbank, hexec⟩ := exec_whr off v s hr
  exact ⟨_, hexec, answers_respond _ _ _, onlyResponseAndHR_respond s bank _ _, hbank.get_one⟩

/-- Settles O23: the handler does not look at the byte count. -/
theorem wdonWritesCoils : Obligations.WdonWritesCoils := by
  intro off n bc data s hr hd
  obtain ⟨bank, hbank, hexec⟩ := exec_wdon_in_range off n bc data s hr hd
  exact ⟨_, hexec, answers_respond _ _ _, onlyResponseAndDO_respond s bank _ _, hbank⟩

/-- Word k of register data as the number of R76. -/
theorem dataWord_eq_bind (data : List Byte) (k : Nat) :
    dataWord data k = (data[2 * k]?).bind
      (fun h => (data[2 * k + 1]?).map (fun l => BitVec.ofNat 16 (h.toNat * 256 + l.toNat))) := by
  unfold dataWord
  cases data[2 * k]? with
  | none => rfl
  | some hi =>
    cases data[2 * k + 1]? with
    | none => rfl
    | some lo => exact congrArg some (wordOf_eq_ofNat hi lo)

/-- Settles O24: ten registers are within the count check's bound. -/
theorem whrnWritesRegisters : Obligations.WhrnWritesRegisters := by
  intro off n bc data s hpos hbc hr hd
  obtain ⟨bank, hbank, hexec⟩ :=
    exec_whrn_in_range off n bc data s (countOk_iff.mpr ⟨hpos, by omega, hbc⟩) hr hd
  exact ⟨_, hexec, answers_respond _ _ _, onlyResponseAndHR_respond s bank _ _,
    hbank.congr fun k _ => dataWord_eq_bind data k⟩

/-! ### Exceptions and drops -/

/-- Settles O25: a code that has bit 7 already is its own mark. -/
theorem illegalRaisesIllegalFunction : Obligations.IllegalRaisesIllegalFunction := by
  intro fc s
  exact ⟨_, exec_illegal fc s, answers_respond _ _ _, onlyResponse_respond _ _ _, or_0x80_of_bit_seven⟩

theorem raisesException_of_rangeRejected {i : Instr} {s : State} (hv : i.valueRejected = false)
    (hr : i.rangeRejected s.cfg.fn02RangeCheck = true) : RaisesException i s .illegalDataAddress := by
  unfold RaisesException
  rw [exec_of_rangeRejected hv hr]
  exact takeException_spec i.fc .illegalDataAddress s

theorem raisesException_of_valueRejected {i : Instr} (s : State) (hv : i.valueRejected = true) :
    RaisesException i s .illegalDataValue := by
  unfold RaisesException
  rw [exec_of_valueRejected s hv]
  exact takeException_spec i.fc .illegalDataValue s

theorem not_inRange_iff {cap off n : Nat} : (!inRange cap off n) = true ↔ cap < off + n := by
  simp [inRange]

theorem not_countOk_iff {n : Word} {bc : Byte} :
    (!countOk n bc) = true ↔ n.toNat = 0 ∨ 0x7B < n.toNat ∨ bc.toNat ≠ 2 * n.toNat := by
  rw [Bool.not_eq_true', Bool.eq_false_iff, ne_eq, countOk_iff]
  omega

/-- A count check that passes. -/
theorem not_countOk_eq_false {n : Word} {bc : Byte} (hpos : 1 ≤ n.toNat) (hmax : n.toNat ≤ 0x7B)
    (hbc : bc.toNat = 2 * n.toNat) : (!countOk n bc) = false := by
  rw [countOk_iff.mpr ⟨hpos, hmax, hbc⟩]
  rfl

/-- Settles O26: each function with its own bank, past its value or count check where it has one. -/
theorem rangeErrorsRaiseDataAddress : Obligations.RangeErrorsRaiseDataAddress := by
  intro off n v bc obc data s
  refine ⟨fun hr => ?rdo, fun hcheck hr => ?rdi, fun hr => ?rhr, fun hpos hmax hbc hr => ?rir, fun hv hr => ?wdo,
    fun hr => ?whr, fun hr => ?wdon, fun hpos hmax hbc hr => ?whrn⟩
  case rdo | rhr | whr | wdon => exact raisesException_of_rangeRejected rfl (not_inRange_iff.mpr hr)
  case rdi =>
    refine raisesException_of_rangeRejected rfl ?_
    rw [hcheck]
    exact not_inRange_iff.mpr hr
  case rir | whrn =>
    exact raisesException_of_rangeRejected (not_countOk_eq_false hpos hmax hbc) (not_inRange_iff.mpr hr)
  case wdo =>
    have hval : v = coilOn ∨ v = coilOff := hv
    exact raisesException_of_rangeRejected (by simp only [Instr.valueRejected, hval, decide_true, Bool.not_true])
      (not_inRange_iff.mpr hr)

/-- Settles O27: the value and count checks come before the range check. -/
theorem valueErrorsRaiseDataValue : Obligations.ValueErrorsRaiseDataValue := by
  intro off n v bc data s
  refine ⟨fun hon hoff => raisesException_of_valueRejected s ?_, fun hcount => ⟨?_, ?_⟩⟩
  · have hval : ¬ (v = coilOn ∨ v = coilOff) := not_or.mpr ⟨hon, hoff⟩
    simp only [Instr.valueRejected, hval, decide_false, Bool.not_false]
  · exact raisesException_of_valueRejected s (not_countOk_iff.mpr hcount)
  · exact raisesException_of_valueRejected s (not_countOk_iff.mpr hcount)

/-- An answer is no drop: its outcome tells. -/
theorem respond_ne_dropped (s w : State) (body : List Byte) (r : DropReason) :
    Host.Outcome.next (φ := Fault) (ρ := Refusal) (w.respond .normal body) ≠ .next (s.dropped r) := by
  intro h
  cases congrArg State.outcome (Host.Outcome.next.inj h)

/-- Settles O28: with enough data both functions answer, so only too little is a drop. -/
theorem shortDataIsDropped : Obligations.ShortDataIsDropped := by
  refine ⟨fun off n bc data s hr => ⟨fun hdrop => ?_, execWdon_of_data_short bc s hr⟩,
    fun off n bc data s hpos hmax hbc hr => ⟨fun hdrop => ?_, fun hshort => ?_⟩⟩
  · by_contra hd
    obtain ⟨bank, -, hexec⟩ := exec_wdon_in_range off n bc data s hr (Nat.le_of_not_lt hd)
    exact respond_ne_dropped _ _ _ _ (hexec.symm.trans hdrop)
  · by_contra hd
    obtain ⟨bank, -, hexec⟩ :=
      exec_whrn_in_range off n bc data s (countOk_iff.mpr ⟨hpos, hmax, hbc⟩) hr (Nat.le_of_not_lt hd)
    exact respond_ne_dropped _ _ _ _ (hexec.symm.trans hdrop)
  · exact exec_of_dataShort (not_countOk_eq_false hpos hmax hbc)
      (Bool.eq_false_iff.mpr (mt not_inRange_iff.mp (Nat.not_lt.mpr hr))) (decide_eq_true hshort)

/-! ### The one end of a handler -/

/-- A normal end answers with a body of the slave's address, the instruction's code and more. -/
theorem NormalEnd.body {s t : State} {i : Instr} (h : NormalEnd s i t) :
    ∃ (w : State) (body : List Byte), t = w.respond .normal body ∧ 3 ≤ body.length ∧ body.getD 0 0 = s.slaveAddr ∧
      body.getD 1 0 = i.fc := by
  cases h <;> exact ⟨_, _, rfl, by simp [readBody, echoBody], rfl, rfl⟩

/-- Settles O29: the ends of `HandlerEnd`, by outcome. -/
theorem handlerEndsOneWay : Obligations.HandlerEndsOneWay := by
  intro i s t hexec
  have hend := handlerEnd_exec i s
  rw [hexec] at hend
  cases hend with
  | illegal hi => subst hi; exact .inr (.inl ⟨.illegalFunction, answers_respond _ _ _⟩)
  | value => exact .inr (.inl ⟨.illegalDataValue, answers_respond _ _ _⟩)
  | range => exact .inr (.inl ⟨.illegalDataAddress, answers_respond _ _ _⟩)
  | short => exact .inr (.inr rfl)
  | normal _ _ _ hnormal =>
    obtain ⟨w, body, rfl, hlen, haddr, hcode⟩ := hnormal.body
    exact .inl ⟨body, hlen, haddr, hcode, answers_respond _ _ _⟩

/-- Settles O31: short of a normal end, a handler changed the response alone. -/
theorem writesAreAllOrNothing : Obligations.WritesAreAllOrNothing := by
  intro i s t hexec hne
  have honly : OnlyResponse s t := keepsUnlessNormal_exec i s t hexec hne
  rw [honly]
  exact ⟨rfl, rfl, rfl, rfl⟩

end Sys2Proof.Machine
end

/-! ## The response buffer and the invariant between host events (R31, R110, R128, R201) -/

section

namespace Sys2Proof.Machine

/-! ### The length of a response -/

theorem length_rsp_respond_readBody (s w : State) (o : TxOutcome) (fc : Byte) (data : List Byte) :
    (w.respond o (readBody s fc data)).rsp.length = 5 + data.length := by
  simp [readBody]
  omega

theorem length_rsp_respond_echoBody (s w : State) (o : TxOutcome) (fc : Byte) (off q : Word) :
    (w.respond o (echoBody s fc off q)).rsp.length = 8 := by
  simp [echoBody]

theorem length_rsp_takeException {fc : Byte} {c : ExceptionCode} {s t : State} (h : takeException fc c s = .next t) :
    t.rsp.length = 5 := by
  cases h
  simp

/-- What R11 asks of the buffer. -/
theorem minFrameBuffer_le_of_ok {p : Config.Params} (h : p.ok = true) : 45 ≤ p.maxFrameLen := by
  simp only [Config.Params.ok, Bool.and_eq_true, decide_eq_true_eq, and_assoc] at h
  obtain ⟨hlen, -⟩ := h
  exact hlen

/-- A whole bank of twenty input registers is the longest response that a range check admits; without the check of function 02
the buffer is checked itself (R143). -/
theorem NormalEnd.length_rsp_le {s t : State} {i : Instr} (h : NormalEnd s i t) (hok : s.cfg.ok = true) :
    t.rsp.length ≤ s.cfg.maxFrameLen := by
  have hmin := minFrameBuffer_le_of_ok hok
  cases h with
  | rdo hr hdata | rdi hr hdata =>
    obtain ⟨hlen, -⟩ := hdata
    have hthree := packedLen_le_three_of_inRange (inRange_iff.mpr hr)
    rw [length_rsp_respond_readBody]
    omega
  | rdiGap hfits hdata =>
    obtain ⟨hlen, -⟩ := hdata
    rw [length_rsp_respond_readBody]
    omega
  | rhr hr hdata | rir hr hdata =>
    obtain ⟨hlen, -⟩ := hdata
    have hsum := Nat.le_trans hr (k := 20) (by decide)
    rw [length_rsp_respond_readBody]
    omega
  | wdo | whr | wdon | whrn =>
    rw [length_rsp_respond_echoBody]
    omega

/-- R31 for a handler. -/
theorem length_rsp_of_exec_le {i : Instr} {s t : State} (hok : s.cfg.ok = true) (hexec : exec i s = .next t) :
    t.rsp.length ≤ s.cfg.maxFrameLen := by
  have hmin := minFrameBuffer_le_of_ok hok
  have hend := handlerEnd_exec i s
  generalize exec i s = r at hend hexec
  cases hend with
  | illegal | value | range =>
    rw [length_rsp_takeException hexec]
    omega
  | short => cases hexec; simp
  | oversize => cases hexec
  | normal _ _ _ hnormal => cases hexec; exact hnormal.length_rsp_le hok

/-- The sealer writes over the two reserved slots, so the response keeps its length (R109, R126). -/
theorem length_sealed_rsp_of_exec {i : Instr} {s u : State} (hexec : exec i s = .next u) :
    u.sealed.rsp.length = u.rsp.length := by
  obtain rfl | ⟨w, o, code, tail, -, rfl⟩ := endsHandler_exec i s u hexec
  · simp
  · rw [State.sealed_rsp_respond, length_sealFrame, State.respond_rsp, List.length_append]
    rfl

/-- The configuration and the bound of R31 along a step. -/
theorem ok_and_fits_of_step {s t : State} (hok : s.cfg.ok = true) (hfits : s.rsp.length ≤ s.cfg.maxFrameLen)
    (hstep : step s = .next t) : t.cfg.ok = true ∧ t.rsp.length ≤ t.cfg.maxFrameLen := by
  obtain ⟨-, rfl⟩ | ⟨f, rest, -, -, -, htrans⟩ | ⟨rest, -, -, rfl⟩ | ⟨a, p, rest, -, -, hp, rfl⟩ := step_next_cases hstep
  · exact ⟨hok, hfits⟩
  · obtain ⟨r, -, rfl⟩ | ⟨-, e, -, rfl⟩ | ⟨-, i, u, -, hexec, rfl⟩ := htrans
    · simp [hok]
    · simp [hok]
    · have hcfg : u.cfg = s.cfg := (endsTransaction_of_exec hexec).config.2
      rw [State.finish_cfg, State.finish_rsp, length_sealed_rsp_of_exec hexec, hcfg]
      exact ⟨hok, length_rsp_of_exec_le (s := s.atHandler f rest) hok hexec⟩
  · exact ⟨hok, State.length_freeBuffer_le _⟩
  · exact ⟨hp, Nat.zero_le _⟩

/-- Settles O30: the bound of a handler, and of a step by what the step is. -/
theorem responseFitsBuffer : Obligations.ResponseFitsBuffer :=
  ⟨fun _ _ _ => length_rsp_of_exec_le, fun _ _ => ok_and_fits_of_step⟩

/-! ### The invariant -/

/-- A response is empty exactly when it answers a drop (R201). -/
theorem RespondsTo.eq_nil_iff {s : State} {fc : Byte} {o : TxOutcome} {rsp : List Byte} (h : RespondsTo s fc o rsp) :
    rsp = [] ↔ ∃ r, o = .drop r := by
  cases h with
  | silent r => exact ⟨fun _ => ⟨r, rfl⟩, fun _ => rfl⟩
  | exception | data | echo => simp [sealFrame, littleEndian]

/-- A whole transaction ends with a response that the invariant describes. -/
theorem inv_of_request {s t : State} {f : List Byte} (hinv : s.Inv) (hoff : s.Offered f) (hstep : step s = .next t) :
    t.Inv := by
  obtain ⟨hok, hfits⟩ := ok_and_fits_of_step hinv.params hinv.fits hstep
  obtain ⟨o, ho, hrsp⟩ := step_request_respondsTo hoff hstep
  obtain ⟨-, hvalid⟩ := sealThenValidate
  obtain ⟨u, ⟨-, ⟨haddr, hcfg⟩, -, -⟩, rfl⟩ := step_request_finish hoff hstep
  rw [State.finish_outcome] at ho
  refine ⟨hok, .inr ⟨rfl, rfl⟩, fun _ => ?sealed, fun _ => ?silent, hfits, fun _ hcheck => ?longest⟩
  case sealed =>
    rw [State.finish_slaveAddr, haddr]
    exact or_iff_not_imp_left.mpr (hvalid s _ f hoff hstep)
  case silent => simpa [ho] using hrsp.eq_nil_iff
  case longest =>
    rw [State.finish_cfg, hcfg] at hcheck
    exact hrsp.length_le hcheck

/-- No response is on offer while RSP_VALID is down. -/
theorem inv_of_idle {t : State} (hok : t.cfg.ok = true) (hphase : t.phase = .idle) (hvalid : t.rspValid = false)
    (hfits : t.rsp.length ≤ t.cfg.maxFrameLen) : t.Inv where
  params := hok
  handshake := .inl ⟨hphase, hvalid⟩
  sealed := by simp [hvalid]
  silent := by simp [hvalid]
  fits := hfits
  longest := by simp [hvalid]

/-- Settles O49: a transaction ends with a response on offer; every other event leaves the block IDLE. -/
theorem stepKeepsInvariant : Obligations.StepKeepsInvariant := by
  intro s t hinv hstep
  obtain ⟨hok, hfits⟩ := ok_and_fits_of_step hinv.params hinv.fits hstep
  obtain ⟨-, rfl⟩ | ⟨f, rest, hhost, hidle, hlen, -⟩ | ⟨rest, -, -, rfl⟩ | ⟨a, p, rest, -, -, -, rfl⟩ := step_next_cases hstep
  · exact hinv
  · exact inv_of_request hinv ⟨by simp [hhost], hidle, hlen⟩ hstep
  · exact inv_of_idle hok rfl rfl hfits
  · exact inv_of_idle hok rfl rfl hfits

theorem inv_construct (addr : Byte) {p : Config.Params} (hok : p.ok = true) : (State.construct addr p).Inv :=
  inv_of_idle hok rfl rfl (Nat.zero_le _)

/-- Settles O50: a construction is IDLE, with an empty buffer; the default parameters obey R11 and R12. -/
theorem resetHasInvariant : Obligations.ResetHasInvariant :=
  ⟨inv_construct defaultSlaveAddr (by decide), fun addr _ => inv_construct addr⟩

end Sys2Proof.Machine
end

/-! ## The step of each host event (R120, R129, R207, R217, R235) -/

section

namespace Sys2Proof.Machine

/-! ### The steps that do not run a handler -/

/-- Settles O53: the schedule is empty. -/
theorem noEventKeepsState : Obligations.NoEventKeepsState := by
  intro s hhost
  simp [step, nextEvent, hhost]

theorem step_of_host_cons {s : State} {e : HostEvent} {rest : List HostEvent} (hhost : s.host = e :: rest) :
    step s = deliver e (s.scheduled rest) := by
  simp [step, nextEvent, hhost]

/-- Settles O54: the duties are looked at before the event is handled. -/
theorem hostDutiesAreRefused : Obligations.HostDutiesAreRefused := by
  intro s rest f a p
  refine ⟨fun hhost hbusy => ?_, fun hhost hidle hlong => ?_, fun hhost hbusy => ?_⟩
  · simp [step_of_host_cons hhost, deliver, hbusy]
  · simp [step_of_host_cons hhost, deliver, hidle, hlong]
  · simp [step_of_host_cons hhost, deliver, hbusy]

/-- Settles O55: the step is the release of the response. -/
theorem takenReturnsToIdle : Obligations.TakenReturnsToIdle := by
  intro s rest hhost hvalid
  have hstep : step s = .next (s.scheduled rest).released := by simp [step_of_host_cons hhost, deliver, hvalid]
  exact ⟨_, hstep, by simp [State.reqReady], by simp, by simp, by simp [SameBanks], by simp, by simp [SameConfig],
    State.length_freeBuffer_le _⟩

/-- A reset is a construction with the schedule and the count of draws that the block had (R230; log entry 14). -/
theorem eq_of_step_of_reset {s t : State} {rest : List HostEvent} {a : Byte} {p : Config.Params}
    (hhost : s.host = .reset a p :: rest) (hstep : step s = .next t) :
    t = { State.construct a p with host := rest, draws := s.draws } := by
  obtain ⟨hnil, -⟩ | ⟨f, rest', hreq, -⟩ | ⟨rest', htaken, -⟩ | ⟨a', p', rest', hreset, -, -, rfl⟩ := step_next_cases hstep
  · simp [hnil] at hhost
  · simp [hreq] at hhost
  · simp [htaken] at hhost
  · rw [hhost] at hreset
    cases hreset
    rfl

/-- Settles O57: of the state before, a reset reads the schedule and the count of draws alone. -/
theorem resetForgets : Obligations.ResetForgets := by
  intro s1 s2 t1 t2 rest a p hhost1 hhost2 hdraws hstep1 hstep2
  rw [eq_of_step_of_reset hhost1 hstep1, eq_of_step_of_reset hhost2 hstep2, hdraws]

/-! ### The step of a request -/

theorem step_of_request {s : State} {f : List Byte} {rest : List HostEvent} (hhost : s.host = .request f :: rest)
    (hidle : s.phase = .idle) (hlen : f.length ≤ s.cfg.maxFrameLen) : step s = transact ((s.scheduled rest).accept f) := by
  simp [step_of_host_cons hhost, deliver, hidle, Nat.not_lt.mpr hlen]

/-- Settles O34: the phases up to HANDLE, run on an accepted frame. -/
theorem stepRunsDecodedInstruction : Obligations.StepRunsDecodedInstruction := by
  intro s f rest i hhost hidle hlen hvalid hd
  have hstart : ((s.scheduled rest).accept f).validated.handling = s.atHandler f rest := rfl
  simp [step_of_request hhost hidle hlen, transact, hvalid, dispatch, hd, hstart]

/-- Settles O35: an encoded instruction passes the validator and is read back. -/
theorem encodedRequestRuns : Obligations.EncodedRequestRuns := by
  intro s rest i hwf hhost hidle hlen
  exact stepRunsDecodedInstruction s _ rest i hhost hidle hlen (validate_encode s.slaveAddr i) (decode_encode s.slaveAddr hwf)

/-- The step of an offered request: the drop of the validator, the drop of the parser, or the handler of its instruction. -/
theorem step_offered_cases {s : State} {f : List Byte} (hoff : s.Offered f) :
    ∃ rest, s.host = .request f :: rest ∧
      ((∃ r, validate s.slaveAddr f = some r ∧ step s = .next (((s.scheduled rest).accept f).dropped r).finish) ∨
       (validate s.slaveAddr f = none ∧ ∃ e, decode f = .error e ∧
          step s = .next (((s.scheduled rest).accept f).validated.dropped .short).finish) ∨
       (validate s.slaveAddr f = none ∧ ∃ i, decode f = .ok i ∧ step s = finishResult (exec i (s.atHandler f rest)))) := by
  obtain ⟨hhead, hidle, hlen⟩ := hoff
  obtain ⟨rest, hhost⟩ := List.head?_eq_some_iff.mp hhead
  have hstep := step_of_request hhost hidle hlen
  refine ⟨rest, hhost, ?_⟩
  cases hvalid : validate s.slaveAddr f with
  | some r => exact .inl ⟨r, rfl, by simp [hstep, transact, hvalid]⟩
  | none =>
    cases hd : decode f with
    | error e => exact .inr (.inl ⟨rfl, e, rfl, by simp [hstep, transact, hvalid, dispatch, hd, dropShort, finishResult]⟩)
    | ok i => exact .inr (.inr ⟨rfl, i, rfl, stepRunsDecodedInstruction s f rest i hhost hidle hlen hvalid hd⟩)

/-- No handler looks at what the host does next. -/
theorem host_of_exec {i : Instr} {s u : State} (hexec : exec i s = .next u) : u.host = s.host := by
  obtain rfl | ⟨w, o, code, tail, hw, rfl⟩ := endsHandler_exec i s u hexec
  · rfl
  · rw [State.respond_host, hw]

/-- A handler has a next state, or it is the oversize read that is refused. -/
theorem exec_next_or_refused (i : Instr) (s : State) :
    (∃ u, exec i s = .next u) ∨ (s.cfg.fn02RangeCheck = false ∧ exec i s = .refused .oversizeDiscreteRead) := by
  have hend := handlerEnd_exec i s
  generalize exec i s = r at hend
  cases hend with
  | illegal | value | range | short | normal => exact .inl ⟨_, rfl⟩
  | oversize hbig =>
    obtain ⟨off, n, -, hcheck, -⟩ := hbig
    exact .inr ⟨hcheck, rfl⟩

/-- Settles O37: `State.finish` raises RSP_VALID and leaves the phase COUNT, whichever way the transaction went. -/
theorem everyRequestCompletes : Obligations.EveryRequestCompletes := by
  intro s f hoff
  obtain ⟨rest, hhost, ⟨r, -, hstep⟩ | ⟨-, e, -, hstep⟩ | ⟨-, i, -, hstep⟩⟩ := step_offered_cases hoff
  · exact .inl ⟨_, hstep, rfl, rfl, by simp [hhost]⟩
  · exact .inl ⟨_, hstep, rfl, rfl, by simp [hhost]⟩
  · obtain ⟨u, hexec⟩ | ⟨hcheck, hexec⟩ := exec_next_or_refused i (s.atHandler f rest)
    · exact .inl ⟨u.finish, by rw [hstep, hexec]; rfl, rfl, rfl, by simp [host_of_exec hexec, hhost]⟩
    · exact .inr ⟨hcheck, by rw [hstep, hexec]; rfl⟩

/-! ### No faults -/

theorem neverFaults_exec (i : Instr) (s : State) : NeverFaults (exec i s) := by
  intro e hfault
  obtain ⟨u, hexec⟩ | ⟨-, hexec⟩ := exec_next_or_refused i s
  · simp [hexec] at hfault
  · simp [hexec] at hfault

theorem neverFaults_next (t : State) : NeverFaults (.next t) := nofun

theorem neverFaults_refused (r : Refusal) : NeverFaults (.refused r) := nofun

theorem neverFaults_ite {p : Prop} [Decidable p] {r1 r2 : Result} (h1 : NeverFaults r1) (h2 : NeverFaults r2) :
    NeverFaults (if p then r1 else r2) := by
  split
  case isTrue => exact h1
  case isFalse => exact h2

theorem neverFaults_finishResult {r : Result} (h : NeverFaults r) : NeverFaults (finishResult r) := by
  cases r with
  | next t => exact neverFaults_next _
  | fault e => exact absurd rfl (h e)
  | refused e => exact neverFaults_refused e

theorem neverFaults_dispatch (s : State) : NeverFaults (dispatch s) := by
  unfold dispatch
  split
  case h_1 i _ => exact neverFaults_exec i s.handling
  case h_2 => exact neverFaults_next _

theorem neverFaults_transact (s : State) : NeverFaults (transact s) := by
  unfold transact
  split
  case h_1 => exact neverFaults_next _
  case h_2 => exact neverFaults_finishResult (neverFaults_dispatch _)

theorem neverFaults_deliver (e : HostEvent) (s : State) : NeverFaults (deliver e s) := by
  cases e with
  | request f => exact neverFaults_ite (neverFaults_refused _) (neverFaults_ite (neverFaults_refused _) (neverFaults_transact _))
  | taken => exact neverFaults_ite (neverFaults_next _) (neverFaults_refused _)
  | reset a p => exact neverFaults_ite (neverFaults_refused _) (neverFaults_ite (neverFaults_next _) (neverFaults_refused _))

/-- Settles O38: the range checks keep every handler from an absent element, and nothing else could fault. -/
theorem nothingFaults : Obligations.NothingFaults := by
  refine ⟨fun s => ?_, neverFaults_exec⟩
  cases hhost : s.host with
  | nil => rw [noEventKeepsState s hhost]; exact neverFaults_next s
  | cons e rest => rw [step_of_host_cons hhost]; exact neverFaults_deliver e _

end Sys2Proof.Machine
end

/-! ## Reset values and parity (R35, R231) -/

section

namespace Sys2Proof.Machine

theorem parity_zero (d : Config.DiParity) : parity d 0 = false := by
  cases d <;> rfl

/-- An exclusive or over a list tells whether an odd number of its entries are 1, starting from `b`. -/
theorem foldl_xor_eq_decide_countP (l : List Nat) (p : Nat → Bool) (b : Bool) :
    l.foldl (fun acc i => Bool.xor acc (p i)) b = Bool.xor b (decide (l.countP p % 2 = 1)) := by
  induction l generalizing b with
  | nil => simp
  | cons x l ih =>
    rw [List.foldl_cons, ih, List.countP_cons]
    cases hx : p x with
    | false => simp
    | true =>
      have hodd : decide ((l.countP p + 1) % 2 = 1) = !decide (l.countP p % 2 = 1) := by
        rw [← decide_not]
        exact decide_eq_decide.mpr (by omega)
      rw [if_pos rfl, hodd, Bool.xor_true, Bool.not_xor, Bool.xor_not]

/-- Settles O58: bit 0 is the remainder by 2, and an exclusive or counts its 1 bits modulo 2. -/
theorem parityMeaning : Obligations.ParityMeaning := by
  refine ⟨fun v => ?_, fun v => ?_, parity_zero⟩
  · simp [parity, BitVec.getLsbD, Nat.testBit_zero]
  · rw [parity, foldl_xor_eq_decide_countP, Bool.false_xor]

/-- Settles O59: the default counter slots are 18 to 20, so the indices below them read the seed. -/
theorem resetStateHoldsResetValues : Obligations.ResetStateHoldsResetValues := by
  have hslots (k : Nat) : (k = defaultParams.idxReqCount ∨ k = defaultParams.idxRxBytes ∨ k = defaultParams.idxTxBytes) ↔
      18 ≤ k ∧ k ≤ 20 := by
    show k = 18 ∨ k = 19 ∨ k = 20 ↔ _
    omega
  have hir {k : Nat} (h1 : 1 ≤ k) (h20 : k ≤ 20) :
      bankGet State.reset.IR k = if 18 ≤ k ∧ k ≤ 20 then some 0 else some (Config.irSeed k) := by
    have hseed : bankGet defaultParams.irSeed k = some (Config.irSeed k) :=
      (bankGet_bankOf capIR Config.irSeed k).trans (if_pos ⟨h1, h20⟩)
    rw [← hseed]
    exact (bankGet_seededIR defaultParams h1 h20).trans (if_congr (hslots k) rfl rfl)
  refine ⟨rfl, fun k h1 h20 => ?_, fun k h1 h10 => ?_, fun k h18 h20 => ?_, fun k h1 h17 => ?_, fun k h1 h20 => ?_⟩
  · exact (bankGet_bankOf capDO (fun _ => false) k).trans (if_pos ⟨h1, h20⟩)
  · exact (bankGet_bankOf capHR (fun _ => 0) k).trans (if_pos ⟨h1, h10⟩)
  · rw [hir (by omega) h20, if_pos ⟨h18, h20⟩]
  · rw [hir h1 (by omega), if_neg (by omega)]
  · exact bankGet_derivedDI defaultParams (seededIR defaultParams) h1 h20

end Sys2Proof.Machine
end

/-! ## What a request leaves unchanged (R22, R24, R26, R71) -/

section

namespace Sys2Proof.Machine

/-! ### Payload bytes that no handler reads -/

theorem packedBit_append {data extra : List Byte} {j : Nat} (hj : j / 8 < data.length) :
    packedBit (data ++ extra) j = packedBit data j := by
  simp [packedBit, List.getElem?_append_left hj]

theorem dataWord_append {data extra : List Byte} {k : Nat} (hk : 2 * k + 1 < data.length) :
    dataWord (data ++ extra) k = dataWord data k := by
  unfold dataWord
  rw [List.getElem?_append_left (by omega), List.getElem?_append_left hk]

theorem unpackBits_append {n : Nat} {data : List Byte} (extra : List Byte) (hd : packedLen n ≤ data.length) :
    unpackBits n (data ++ extra) = unpackBits n data := by
  have hbits : n ≤ 8 * data.length := packedLen_le_iff.mp hd
  exact unpackBits_congr fun j hj => packedBit_append (by omega)

theorem dataWords_append {n : Nat} {data : List Byte} (extra : List Byte) (hd : 2 * n ≤ data.length) :
    dataWords n (data ++ extra) = dataWords n data :=
  readAll_congr n fun k hk => dataWord_append (by omega)

/-- Settles O11: the parser of the fixed formats, and the data reads of functions 15 and 16. -/
theorem extraPayloadIgnored : Obligations.ExtraPayloadIgnored := by
  refine ⟨fun a c0 c1 extra i => decode_body_append a extra c0 c1, fun off n bc data extra s hd => ?_,
    fun off n bc data extra s hd => ?_⟩
  · simp only [exec, execWdon, unpackBits_append extra hd]
  · simp only [exec, execWhrn, dataWords_append extra hd]

/-! ### Read-only registers -/

/-- COUNT moves no register outside the counter slots (R24). -/
theorem bankGet_finish_IR {s : State} {k : Nat} (hk : s.cfg.isCounterSlot k = false) :
    bankGet s.finish.IR k = bankGet s.IR k := by
  simp only [Config.Params.isCounterSlot, Bool.or_eq_false_iff, beq_eq_false_iff_ne] at hk
  obtain ⟨⟨hreq, hrx⟩, htx⟩ := hk
  simp [bankGet_bankAdd, hreq, hrx, htx]

/-- Settles O51: a request leaves them to COUNT, which moves the counter slots alone; the other events write no bank. -/
theorem inputsAndConfigurationAreReadOnly : Obligations.InputsAndConfigurationAreReadOnly := by
  intro s t hstep hnoreset
  obtain ⟨-, rfl⟩ | ⟨f, rest, hhost, hidle, hlen, -⟩ | ⟨rest, -, -, rfl⟩ | ⟨a, p, rest, hhost, -⟩ := step_next_cases hstep
  · exact ⟨rfl, ⟨rfl, rfl⟩, fun _ _ => rfl⟩
  · obtain ⟨u, ⟨⟨hDI, hIR⟩, ⟨haddr, hcfg⟩, -, -⟩, rfl⟩ := step_request_finish ⟨by simp [hhost], hidle, hlen⟩ hstep
    refine ⟨hDI, ⟨haddr, hcfg⟩, fun k hk => ?_⟩
    rw [bankGet_finish_IR (by rwa [hcfg]), hIR]
  · exact ⟨rfl, ⟨rfl, rfl⟩, fun _ _ => rfl⟩
  · exact absurd (by simp [hhost]) (hnoreset a p)

/-! ### Output banks -/

/-- The handler that a transaction with a normal outcome ran, and what it did. -/
theorem step_normalEnd {s t : State} {f : List Byte} (hoff : s.Offered f) (hstep : step s = .next t)
    (hnormal : t.outcome = some .normal) :
    ∃ rest i u, decode f = .ok i ∧ NormalEnd (s.atHandler f rest) i u ∧ t = u.finish := by
  obtain ⟨rest, -, ⟨r, -, hdrop⟩ | ⟨-, e, -, hdrop⟩ | ⟨-, i, hd, hrun⟩⟩ := step_offered_cases hoff
  · cases hstep.symm.trans hdrop
    cases hnormal
  · cases hstep.symm.trans hdrop
    cases hnormal
  · have hend := handlerEnd_exec i (s.atHandler f rest)
    generalize exec i (s.atHandler f rest) = r at hend hrun
    cases hend with
    | illegal | value | range | short =>
      cases hstep.symm.trans hrun
      cases hnormal
    | oversize => cases hstep.symm.trans hrun
    | @normal u _ _ _ hend =>
      cases hstep.symm.trans hrun
      exact ⟨rest, i, u, hd, hend, rfl⟩

/-- Of the normal ends, only those of functions 05 and 15 write coils, and only those of 06 and 16 holding registers (R26). -/
theorem NormalEnd.outputs {s t : State} {i : Instr} (h : NormalEnd s i t) :
    (t.DO ≠ s.DO → i.fc.toNat ∈ [0x05, 0x0F]) ∧ (t.HR ≠ s.HR → i.fc.toNat ∈ [0x06, 0x10]) := by
  cases h with
  | rdo | rdi | rdiGap | rhr | rir => exact ⟨absurd rfl, absurd rfl⟩
  | wdo | wdon => exact ⟨fun _ => by simp [Instr.fc, FunctionCode.byte], absurd rfl⟩
  | whr | whrn => exact ⟨absurd rfl, fun _ => by simp [Instr.fc, FunctionCode.byte]⟩

/-- The same of a whole transaction. -/
theorem outputs_of_request {s t : State} {f : List Byte} (hoff : s.Offered f) (hstep : step s = .next t) :
    (t.DO ≠ s.DO → t.outcome = some .normal ∧ byteAt f 1 ∈ [0x05, 0x0F]) ∧
    (t.HR ≠ s.HR → t.outcome = some .normal ∧ byteAt f 1 ∈ [0x06, 0x10]) := by
  by_cases hnormal : t.outcome = some .normal
  · obtain ⟨rest, i, u, hd, hend, rfl⟩ := step_normalEnd hoff hstep hnormal
    obtain ⟨hDO, hHR⟩ := hend.outputs
    rw [fc_of_decode hd] at hDO hHR
    exact ⟨fun hne => ⟨hnormal, hDO hne⟩, fun hne => ⟨hnormal, hHR hne⟩⟩
  · obtain ⟨u, hend, rfl⟩ := step_request_finish hoff hstep
    obtain ⟨hDO, hHR⟩ := hend.outputs hnormal
    exact ⟨fun hne => absurd hDO hne, fun hne => absurd hHR hne⟩

/-- Settles O52: of the events that are no reset, a request alone writes an output bank. -/
theorem onlyWriteFunctionsChangeOutputs : Obligations.OnlyWriteFunctionsChangeOutputs := by
  intro s t e hstep hhead hnoreset
  obtain ⟨-, rfl⟩ | ⟨f, rest, hhost, hidle, hlen, -⟩ | ⟨rest, -, -, rfl⟩ | ⟨a, p, rest, hhost, -⟩ := step_next_cases hstep
  · exact ⟨absurd rfl, absurd rfl⟩
  · have he : e = .request f := by simpa [hhost] using hhead.symm
    obtain ⟨hDO, hHR⟩ := outputs_of_request ⟨by simp [hhost], hidle, hlen⟩ hstep
    exact ⟨fun hne => ⟨f, he, hDO hne⟩, fun hne => ⟨f, he, hHR hne⟩⟩
  · exact ⟨absurd rfl, absurd rfl⟩
  · exact absurd (by simpa [hhost] using hhead.symm) (hnoreset a p)

end Sys2Proof.Machine
end

/-! ## What a normal response holds (R75, R140, R146, R212) -/

section

namespace Sys2Proof.Machine

/-! ### The normal end of an instruction is the one of its constructor -/

theorem normalEnd_of_exec {i : Instr} {s t : State} (hexec : exec i s = .next t) (hnormal : t.outcome = some .normal) :
    NormalEnd s i t := by
  have hend := handlerEnd_exec i s
  rw [hexec] at hend
  cases hend with
  | illegal | value | range | short => cases hnormal
  | normal _ _ _ hend => exact hend

/-! ### Reading back what was written (95_test_vectors.md E3 to E5) -/

/-- The response of a read function carries its data from index 3 on. -/
theorem rsp_respond_readBody_drop (s w : State) (o : TxOutcome) (fc : Byte) (data : List Byte) :
    (w.respond o (readBody s fc data)).rsp.drop 3 = data ++ [Config.freeByte w.draws, Config.freeByte (w.draws + 1)] := by
  simp [readBody]

/-- The packed data of a read response, bit by bit. -/
theorem packedBit_rsp_readBody {c : Nat} {bank : Vector Bool c} {off n : Nat} {data : List Byte} (s w : State) (o : TxOutcome)
    (fc : Byte) (hdata : PacksBank bank off n data) {j : Nat} (hj : j < n) :
    packedBit ((w.respond o (readBody s fc data)).rsp.drop 3) j = bankGet bank (off + 1 + j) := by
  obtain ⟨hlen, hbits⟩ := hdata
  have hlt : j < 8 * data.length := by
    rw [hlen]
    exact hj.trans_le (packedLen_le_iff.mp le_rfl)
  rw [rsp_respond_readBody_drop, packedBit_append (by omega), hbits j hlt, if_pos hj]

/-- What function 01 answers on a range within the bank, bit by bit. -/
theorem rdo_reads_coils {off n : Word} {s u : State} (hr : off.toNat + n.toNat ≤ capDO) (hexec : exec (.rdo off n) s = .next u) :
    u.outcome = some .normal ∧
      ∀ j, j < n.toNat → packedBit (u.rsp.drop 3) j = bankGet s.DO (off.toNat + 1 + j) := by
  obtain ⟨data, hdata, hread⟩ := exec_rdo off n s hr
  cases hexec.symm.trans hread
  exact ⟨rfl, fun j hj => packedBit_rsp_readBody s s _ _ hdata hj⟩

/-- Settles O32: the coils written are the coils served. -/
theorem coilsReadBack : Obligations.CoilsReadBack := by
  constructor
  · intro off n bc data s t s2 u hwrite hnormal hDO hread
    cases normalEnd_of_exec hwrite hnormal with
    | wdon hr hbank =>
      obtain ⟨hout, hbits⟩ := rdo_reads_coils hr hread
      refine ⟨hout, fun j hj => ?_⟩
      rw [hbits j hj, hDO]
      exact hbank.get hj
  · intro off v s t s2 u hwrite hnormal hDO hread
    cases normalEnd_of_exec hwrite hnormal with
    | wdo hr hbank =>
      obtain ⟨hout, hbits⟩ := rdo_reads_coils (n := 1) hr hread
      refine ⟨hout, ?_⟩
      rw [hbits 0 (by decide), hDO]
      exact hbank.get Nat.zero_lt_one

/-- Register data is its words, two bytes each. -/
theorem eq_of_getElem?_pairs {n : Nat} {d1 d2 : List Byte} (h1 : d1.length = 2 * n) (h2 : d2.length = 2 * n)
    (hpairs : ∀ k, k < n → d1[2 * k]? = d2[2 * k]? ∧ d1[2 * k + 1]? = d2[2 * k + 1]?) : d1 = d2 := by
  refine List.ext_getElem? fun j => ?_
  by_cases hj : j < 2 * n
  · obtain ⟨heven, hodd⟩ := hpairs (j / 2) (by omega)
    obtain hmod | hmod : j = 2 * (j / 2) ∨ j = 2 * (j / 2) + 1 := by omega
    · rw [hmod]; exact heven
    · rw [hmod]; exact hodd
  · rw [List.getElem?_eq_none (by omega), List.getElem?_eq_none (by omega)]

/-- The two bytes of a data word are the bytes it was read from (R76, R146). -/
theorem dataWord_bytes {data : List Byte} {k : Nat} (hk : 2 * k + 1 < data.length) :
    (dataWord data k).map hiByte = data[2 * k]? ∧ (dataWord data k).map loByte = data[2 * k + 1]? := by
  have hlt : 2 * k < data.length := by omega
  simp [dataWord, hk, hlt, hiByte_wordOf, loByte_wordOf]

/-- What function 03 answers on a range within the bank, without the two reserved slots. -/
theorem rhr_reads_holdings {off n : Word} {s u : State} (hr : off.toNat + n.toNat ≤ capHR)
    (hexec : exec (.rhr off n) s = .next u) :
    u.outcome = some .normal ∧ ServesBank s.HR off.toNat n.toNat ((u.rsp.drop 3).take (2 * n.toNat)) := by
  obtain ⟨data, hdata, hread⟩ := exec_rhr off n s hr
  cases hexec.symm.trans hread
  have hlen : data.length = 2 * n.toNat := hdata.1
  refine ⟨rfl, ?_⟩
  rw [rsp_respond_readBody_drop, List.take_left' hlen]
  exact hdata

/-- Settles O33: the registers written are the registers served. -/
theorem registersReadBack : Obligations.RegistersReadBack := by
  constructor
  · intro off n bc data s t s2 u hwrite hnormal hHR hread
    cases normalEnd_of_exec hwrite hnormal with
    | whrn hr hd hbank =>
      obtain ⟨hout, hlen, hwords⟩ := rhr_reads_holdings hr hread
      refine ⟨hout, eq_of_getElem?_pairs hlen (by simp [hd]) fun k hk => ?_⟩
      obtain ⟨hhi, hlo⟩ := hwords k hk
      obtain ⟨hdhi, hdlo⟩ := dataWord_bytes (data := data) (k := k) (by omega)
      have hget : bankGet s2.HR (off.toNat + 1 + k) = dataWord data k := by
        rw [hHR]
        exact hbank.get hk
      rw [hhi, hlo, hget, hdhi, hdlo, List.getElem?_take_of_lt (by omega), List.getElem?_take_of_lt (by omega)]
      exact ⟨rfl, rfl⟩
  · intro off v s t s2 u hwrite hnormal hHR hread
    cases normalEnd_of_exec hwrite hnormal with
    | whr hr hbank =>
      obtain ⟨hout, hlen, hwords⟩ := rhr_reads_holdings (n := 1) hr hread
      refine ⟨hout, eq_of_getElem?_pairs (n := 1) hlen rfl fun k hk => ?_⟩
      obtain rfl := Nat.lt_one_iff.mp hk
      obtain ⟨hhi, hlo⟩ := hwords 0 (by decide)
      have hget : bankGet s2.HR (off.toNat + 1 + 0) = some v := by
        rw [hHR]
        exact hbank.get Nat.zero_lt_one
      rw [hget] at hhi hlo
      exact ⟨hhi, hlo⟩

/-! ### The header of a decoded frame -/

/-- What the parser reads: an illegal code and nothing more, or the fields of a function, from eight bytes on. -/
theorem decode_ok_cases {f : List Byte} {i : Instr} (hd : decode f = .ok i) :
    (illegalCode (byteAt f 1) = true ∧ i = .illegal (f.getD 1 0)) ∨
    (∃ c, f.getD 1 0 = c.byte ∧ 8 ≤ f.length ∧
      decodeFields c (wordOf (f.getD 2 0) (f.getD 3 0)) (wordOf (f.getD 4 0) (f.getD 5 0)) f = .ok i) := by
  by_cases h4 : f.length < 4
  · simp [decode, h4] at hd
  cases hc : FunctionCode.ofByte (f.getD 1 0) with
  | none =>
    rw [decode_of_ofByte_eq_none (Nat.le_of_not_lt h4) hc] at hd
    cases hd
    exact .inl ⟨ofByte_eq_none_iff.mp hc, rfl⟩
  | some c =>
    by_cases h8 : f.length < 8
    · rw [decode_of_length_lt_eight hc (Nat.le_of_not_lt h4) h8] at hd
      cases hd
    · rw [decode_of_eight_le_length hc (Nat.le_of_not_lt h8)] at hd
      exact .inr ⟨c, ofByte_eq_some_iff.mp hc, Nat.le_of_not_lt h8, hd⟩

/-- OFF and Q of an instruction are bytes 2 to 5 of its frame (R72, R124). -/
theorem header_of_decode {f : List Byte} {i : Instr} {off q : Word} (hd : decode f = .ok i)
    (hheader : headerFields i = some (off, q)) :
    8 ≤ f.length ∧ off = wordOf (f.getD 2 0) (f.getD 3 0) ∧ q = wordOf (f.getD 4 0) (f.getD 5 0) := by
  obtain ⟨-, rfl⟩ | ⟨c, -, hlen, hfields⟩ := decode_ok_cases hd
  · cases hheader
  · rw [headerFields_of_decodeFields hfields] at hheader
    cases hheader
    exact ⟨hlen, rfl, rfl⟩

theorem take_eq_map_getD {f : List Byte} {n : Nat} (h : n ≤ f.length) :
    f.take n = (List.range n).map (fun j => f.getD j 0) := by
  refine List.ext_getElem (by simp [h]) fun j hj _ => ?_
  have hlt : j < f.length := (List.length_take_le' n f).trans_lt' hj
  simp [List.getD_eq_getElem?_getD, hlt]

/-- The header bytes of a request, the address among them (R72). -/
theorem take_six_eq {f : List Byte} (h : 8 ≤ f.length) :
    f.take 6 = [f.getD 0 0, f.getD 1 0, f.getD 2 0, f.getD 3 0, f.getD 4 0, f.getD 5 0] :=
  take_eq_map_getD (by omega)

/-- The normal end of a write function is the echo of its header (R75). -/
theorem NormalEnd.echo {s t : State} {i : Instr} (h : NormalEnd s i t) (hfc : i.fc.toNat ∈ [0x05, 0x06, 0x0F, 0x10]) :
    ∃ (w : State) (off q : Word), headerFields i = some (off, q) ∧ t = w.respond .normal (echoBody s i.fc off q) := by
  cases h with
  | rdo | rdi | rdiGap | rhr | rir => simp [Instr.fc, FunctionCode.byte] at hfc
  | wdo | whr | wdon | whrn => exact ⟨_, _, _, rfl, rfl⟩

/-- Settles O45: the echo is made of the decoded header, whose bytes are those of the frame. -/
theorem echoCopiesTheHeader : Obligations.EchoCopiesTheHeader := by
  intro s t f hv hstep hnormal hfc
  obtain ⟨rest, i, u, hd, hend, rfl⟩ := step_normalEnd hv.1 hstep hnormal
  have hcode := fc_of_decode hd
  obtain ⟨w, off, q, hheader, rfl⟩ := hend.echo (by rw [hcode]; exact hfc)
  obtain ⟨hlen, rfl, rfl⟩ := header_of_decode hd hheader
  obtain ⟨-, haddr⟩ := header_of_offeredValid hv
  rw [State.finish_rsp, State.sealed_rsp_respond, take_six_eq hlen, hcode, haddr, echoBody]
  simp only [hiByte_wordOf, loByte_wordOf]
  rfl

/-! ### Function 04 -/

theorem NormalEnd.servesIR {s t : State} {i : Instr} (h : NormalEnd s i t) (hfc : i.fc.toNat = 0x04) :
    ∃ (off n : Word) (data : List Byte), headerFields i = some (off, n) ∧ ServesBank s.IR off.toNat n.toNat data ∧
      t = s.respond .normal (readBody s 0x04 data) := by
  cases h with
  | rir hr hdata => exact ⟨_, _, _, rfl, hdata, rfl⟩
  | _ => simp [Instr.fc, FunctionCode.byte] at hfc

/-- Settles O47: the handler served the registers it found, and COUNT came after it. -/
theorem counterSelfRead : Obligations.CounterSelfRead := by
  intro s t f hv hok hfc hstep hnormal
  have hcount := everyTransactionIsCounted s t f hok hv.1 hstep
  obtain ⟨rest, i, u, hd, hend, rfl⟩ := step_normalEnd hv.1 hstep hnormal
  obtain ⟨off, n, data, hheader, hdata, rfl⟩ := hend.servesIR (by rw [fc_of_decode hd]; exact hfc)
  obtain ⟨-, rfl, rfl⟩ := header_of_decode hd hheader
  rw [wordOf_toNat, wordOf_toNat] at hdata
  have hserves : ServesBank s.IR (offOf f) (qOf f) data := hdata
  have hlen : data.length = 2 * qOf f := hserves.1
  rw [State.finish_rsp, State.sealed_rsp_respond] at hcount ⊢
  rw [length_sealFrame_readBody, hlen] at hcount
  have hdrop : (sealFrame (readBody (s.atHandler f rest) 0x04 data)).drop 3 =
      data ++ littleEndian (crcOver (readBody (s.atHandler f rest) 0x04 data)) := by
    simp [sealFrame, readBody]
  rw [hdrop, List.take_left' hlen]
  exact ⟨hserves, hcount⟩

end Sys2Proof.Machine
end

/-! ## The outcome of a request is its first failure (R202, R204, R205) -/

section

namespace Sys2Proof.Machine

/-! ### The order of failures, one at a time -/

/-- The outcome of the first failure that applies, or Normal. -/
def firstFailure : List (Bool × TxOutcome) → TxOutcome
  | [] => .normal
  | (failed, o) :: rest => if failed then o else firstFailure rest

theorem firstFailure_eq_find? (l : List (Bool × TxOutcome)) :
    firstFailure l = ((l.find? (·.1)).map (·.2)).getD .normal := by
  induction l with
  | nil => rfl
  | cons x l ih =>
    obtain ⟨failed, o⟩ := x
    cases failed with
    | true => rfl
    | false => exact ih

theorem priorityOutcome_eq (check02 : Bool) (addr : Byte) (f : List Byte) :
    priorityOutcome check02 addr f = firstFailure (failureOrder check02 addr f) := by
  rw [firstFailure_eq_find?, priorityOutcome]
  cases (failureOrder check02 addr f).find? (·.1) <;> rfl

/-- Steps 1 to 3 of R204 are the validator's, in its order (R106). -/
theorem expectedOutcome_of_validate_eq_some {s : State} {f : List Byte} {r : DropReason}
    (h : validate s.slaveAddr f = some r) : s.expectedOutcome f = .drop r := by
  rw [State.expectedOutcome, priorityOutcome_eq, failureOrder]
  unfold validate at h
  split at h
  case isTrue hlen => cases h; simp [firstFailure, hlen]
  case isFalse hlen =>
    split at h
    case isTrue haddr =>
      cases h
      simp only [firstFailure, hlen, bne_iff_ne.mpr haddr, decide_false, Bool.false_eq_true, if_false, if_true]
    case isFalse haddr =>
      split at h
      case isTrue hcrc =>
        cases h
        simp only [firstFailure, hlen, bne_eq_false_iff_eq.mpr (not_not.mp haddr), bne_iff_ne.mpr hcrc, decide_false,
          Bool.false_eq_true, if_false, if_true]
      case isFalse => cases h

/-- Steps 4 to 8 of R204 are left for a valid frame. -/
theorem expectedOutcome_of_validate_eq_none {s : State} {f : List Byte} (h : validate s.slaveAddr f = none) :
    s.expectedOutcome f = firstFailure
      [(illegalCode (byteAt f 1), .exception .illegalFunction), (headerShort f, .drop .short),
        (valueRejected f, .exception .illegalDataValue),
        (rangeRejected s.cfg.fn02RangeCheck f, .exception .illegalDataAddress), (dataShort f, .drop .short)] := by
  obtain ⟨hlen, haddr, hcrc⟩ := validate_eq_none_iff.mp h
  rw [State.expectedOutcome, priorityOutcome_eq, failureOrder]
  simp only [firstFailure, decide_eq_false (Nat.not_lt.mpr hlen), bne_eq_false_iff_eq.mpr haddr, bne_eq_false_iff_eq.mpr hcrc,
    Bool.false_eq_true, if_false]

/-! ### Steps 4 and 5: the parser -/

theorem headerShort_iff {f : List Byte} : headerShort f = true ↔ f.length < 8 ∨ (byteAt f 1 = 0x10 ∧ f.length < 9) := by
  simp [headerShort]

/-- Where a frame of four bytes has no instruction, its code is legal and its header is short. -/
theorem headerShort_of_decode_eq_error {f : List Byte} {e : DecodeError} (hlen : 4 ≤ f.length) (hd : decode f = .error e) :
    illegalCode (byteAt f 1) = false ∧ headerShort f = true := by
  have hlegal : illegalCode (byteAt f 1) = false := by
    refine Bool.eq_false_iff.mpr fun hill => ?_
    simp [decode_of_ofByte_eq_none hlen (ofByte_eq_none_iff.mpr hill)] at hd
  refine ⟨hlegal, headerShort_iff.mpr ?_⟩
  by_contra hlong
  rw [not_or, not_and, Nat.not_lt, Nat.not_lt] at hlong
  obtain ⟨h8, h9⟩ := hlong
  obtain ⟨c, hc⟩ := exists_ofByte_eq_some hlegal
  rw [decode_of_eight_le_length hc h8] at hd
  obtain ⟨i, hi⟩ := exists_decodeFields_eq_ok c _ _ fun hwhrn =>
    h9 (by rw [byteAt, ofByte_eq_some_iff.mp hc, hwhrn]; rfl)
  exact nomatch hd.symm.trans hi

/-- Where a frame of a legal code has an instruction, its header is long enough. -/
theorem headerShort_of_decode_eq_ok {f : List Byte} {i : Instr} (hlen : 4 ≤ f.length)
    (hlegal : illegalCode (byteAt f 1) = false) (hd : decode f = .ok i) : headerShort f = false := by
  refine Bool.eq_false_iff.mpr fun hshort => ?_
  simp [decode_of_header_short hlegal hlen (headerShort_iff.mp hshort)] at hd

/-! ### Steps 6 to 8: the checks of the frame are the checks of its instruction -/

theorem not_countOk_eq (n : Word) (bc : Byte) :
    (!countOk n bc) = (n.toNat == 0 || 0x7B < n.toNat || bc.toNat != 2 * n.toNat) := by
  rw [Bool.eq_iff_iff, not_countOk_iff]
  simp [or_assoc]

theorem not_inRange_eq (cap off n : Nat) : (!inRange cap off n) = decide (cap < off + n) := by
  rw [Bool.eq_iff_iff, not_inRange_iff, decide_eq_true_iff]

theorem not_coilValue_eq (v : Word) :
    (!decide (v = coilOn ∨ v = coilOff)) = (v.toNat != 0x0000 && v.toNat != 0xFF00) := by
  have hon : v = coilOn ↔ v.toNat = 0xFF00 := BitVec.toNat_eq
  have hoff : v = coilOff ↔ v.toNat = 0x0000 := BitVec.toNat_eq
  rw [Bool.eq_iff_iff]
  simp [hon, hoff, and_comm]

/-- The fields of function 16: it has a byte count, so its frame has nine bytes. -/
theorem decodeFields_whrn_eq_ok {off q : Word} {f : List Byte} {i : Instr} (h : decodeFields .whrn off q f = .ok i) :
    9 ≤ f.length ∧ i = .whrn off q (f.getD 6 0) ((payload f).drop 7) := by
  by_cases hlen : f.length < 9
  · rw [decodeFields_whrn_of_length_lt_nine off q hlen] at h
    cases h
  · have hbc := field_eq_some (f := f) (i := 6) (Nat.le_of_not_lt hlen)
    simp only [decodeFields, hbc] at h
    cases h
    exact ⟨Nat.le_of_not_lt hlen, rfl⟩

/-- The data field of a frame (R73). -/
theorem length_data (f : List Byte) : ((payload f).drop 7).length = f.length - 9 := by
  simp [payload]
  omega

/-- `i` is what the parser reads from the frame `f` of function `c`. -/
structure ReadsAs (f : List Byte) (c : FunctionCode) (off q : Word) (i : Instr) : Prop where
  code : byteAt f 1 = c.byte.toNat
  off_eq : off.toNat = offOf f
  q_eq : q.toNat = qOf f
  long : 8 ≤ f.length
  fields : decodeFields c off q f = .ok i

/-- Step 6 (column 0x03 of R202). -/
theorem ReadsAs.valueRejected_eq {f : List Byte} {c : FunctionCode} {off q : Word} {i : Instr} (h : ReadsAs f c off q i) :
    valueRejected f = i.valueRejected := by
  obtain ⟨hcode, -, hq, -, hfields⟩ := h
  have hbc : (f.getD 6 0).toNat = byteAt f 6 := rfl
  cases c with
  | rdo | rdi | rhr | whr | wdon =>
    cases hfields
    simp [valueRejected, hcode, FunctionCode.byte, Instr.valueRejected]
  | rir =>
    cases hfields
    simp only [Instr.valueRejected, not_countOk_eq, hq, hbc]
    simp [valueRejected, hcode, FunctionCode.byte]
  | wdo =>
    cases hfields
    simp only [Instr.valueRejected, not_coilValue_eq, hq]
    simp [valueRejected, hcode, FunctionCode.byte]
  | whrn =>
    obtain ⟨-, rfl⟩ := decodeFields_whrn_eq_ok hfields
    simp only [Instr.valueRejected, not_countOk_eq, hq, hbc]
    simp [valueRejected, hcode, FunctionCode.byte]

/-- Step 7 (column 0x02 of R202). -/
theorem ReadsAs.rangeRejected_eq {f : List Byte} {c : FunctionCode} {off q : Word} {i : Instr} (h : ReadsAs f c off q i)
    (check02 : Bool) : rangeRejected check02 f = i.rangeRejected check02 := by
  obtain ⟨hcode, hoff, hq, -, hfields⟩ := h
  cases c with
  | whrn =>
    obtain ⟨-, rfl⟩ := decodeFields_whrn_eq_ok hfields
    simp [rangeRejected, hcode, FunctionCode.byte, Instr.rangeRejected, not_inRange_eq, hoff, hq]
  | _ =>
    cases hfields
    simp [rangeRejected, hcode, FunctionCode.byte, Instr.rangeRejected, not_inRange_eq, hoff, hq]

/-- Step 8; a frame of eight bytes has no data, which is enough for function 15 with N = 0 alone (log entry 17). -/
theorem ReadsAs.dataShort_eq {f : List Byte} {c : FunctionCode} {off q : Word} {i : Instr} (h : ReadsAs f c off q i) :
    dataShort f = i.dataShort := by
  obtain ⟨hcode, -, hq, hlen, hfields⟩ := h
  cases c with
  | wdon =>
    cases hfields
    rw [Bool.eq_iff_iff, Instr.dataShort, length_data, packedLen, hq]
    simp [dataShort, hcode, FunctionCode.byte]
    omega
  | whrn =>
    obtain ⟨h9, rfl⟩ := decodeFields_whrn_eq_ok hfields
    rw [Bool.eq_iff_iff, Instr.dataShort, length_data, hq]
    simp [dataShort, hcode, FunctionCode.byte]
    omega
  | _ =>
    cases hfields
    simp [dataShort, hcode, FunctionCode.byte, Instr.dataShort]

/-! ### The outcome of an instruction -/

/-- Steps 4 and 6 to 8 of R204 for an instruction that the parser has read. -/
def outcomeOf (check02 : Bool) : Instr → TxOutcome
  | .illegal _ => .exception .illegalFunction
  | i => firstFailure
      [(i.valueRejected, .exception .illegalDataValue), (i.rangeRejected check02, .exception .illegalDataAddress),
        (i.dataShort, .drop .short)]

theorem outcomeOf_of_legal {i : Instr} (check02 : Bool) (h : ∀ fc, i ≠ .illegal fc) :
    outcomeOf check02 i = firstFailure
      [(i.valueRejected, .exception .illegalDataValue), (i.rangeRejected check02, .exception .illegalDataAddress),
        (i.dataShort, .drop .short)] := by
  cases i with
  | illegal fc => exact absurd rfl (h fc)
  | _ => rfl

theorem NormalEnd.legal {s t : State} {i : Instr} (h : NormalEnd s i t) (fc : Byte) : i ≠ .illegal fc := by
  rintro rfl
  cases h

theorem NormalEnd.outcome_eq {s t : State} {i : Instr} (h : NormalEnd s i t) : t.outcome = some .normal := by
  obtain ⟨w, body, rfl, -⟩ := h.body
  rfl

/-- A handler ends with the outcome of its instruction. -/
theorem outcome_of_exec {i : Instr} {s u : State} (hexec : exec i s = .next u) :
    u.outcome = some (outcomeOf s.cfg.fn02RangeCheck i) := by
  have hend := handlerEnd_exec i s
  generalize exec i s = r at hend hexec
  cases hend with
  | illegal hi => subst hi; cases hexec; rfl
  | value hv =>
    have hlegal (fc : Byte) : i ≠ .illegal fc := by rintro rfl; cases hv
    cases hexec
    simp [outcomeOf_of_legal _ hlegal, firstFailure, hv]
  | range hv hr =>
    have hlegal (fc : Byte) : i ≠ .illegal fc := by rintro rfl; cases hr
    cases hexec
    simp [outcomeOf_of_legal _ hlegal, firstFailure, hv, hr]
  | short hv hr hd =>
    have hlegal (fc : Byte) : i ≠ .illegal fc := by rintro rfl; cases hd
    cases hexec
    simp [outcomeOf_of_legal _ hlegal, firstFailure, hv, hr, hd]
  | oversize => cases hexec
  | normal hv hr hd hnormal =>
    cases hexec
    simp [hnormal.outcome_eq, outcomeOf_of_legal _ hnormal.legal, firstFailure, hv, hr, hd]

/-- The order of R204 gives a valid frame the outcome of its instruction. -/
theorem expectedOutcome_of_decode_eq_ok {s : State} {f : List Byte} {i : Instr} (hvalid : validate s.slaveAddr f = none)
    (hd : decode f = .ok i) : s.expectedOutcome f = outcomeOf s.cfg.fn02RangeCheck i := by
  obtain ⟨hlen, -⟩ := validate_eq_none_iff.mp hvalid
  rw [expectedOutcome_of_validate_eq_none hvalid]
  obtain ⟨hill, rfl⟩ | ⟨c, hc, h8, hfields⟩ := decode_ok_cases hd
  · simp [firstFailure, hill, outcomeOf]
  · have hcode : byteAt f 1 = c.byte.toNat := congrArg BitVec.toNat hc
    have hlegal : illegalCode (byteAt f 1) = false := by rw [hcode, illegalCode_byte]
    have hne (fc : Byte) : i ≠ .illegal fc := by
      rintro rfl
      exact decode_ne_illegal_of_ofByte_eq_some (ofByte_eq_some_iff.mpr hc) fc hd
    have hreads : ReadsAs f c _ _ i := ⟨hcode, wordOf_toNat _ _, wordOf_toNat _ _, h8, hfields⟩
    rw [outcomeOf_of_legal _ hne, ← hreads.valueRejected_eq, ← hreads.rangeRejected_eq, ← hreads.dataShort_eq]
    simp [firstFailure, hlegal, headerShort_of_decode_eq_ok hlen hlegal hd]

/-- The order of R204 drops a valid frame without an instruction (step 5). -/
theorem expectedOutcome_of_decode_eq_error {s : State} {f : List Byte} {e : DecodeError}
    (hvalid : validate s.slaveAddr f = none) (hd : decode f = .error e) : s.expectedOutcome f = .drop .short := by
  obtain ⟨hlen, -⟩ := validate_eq_none_iff.mp hvalid
  obtain ⟨hlegal, hshort⟩ := headerShort_of_decode_eq_error hlen hd
  rw [expectedOutcome_of_validate_eq_none hvalid]
  simp [firstFailure, hlegal, hshort]

/-! ### The read that has no meaning -/

/-- Of the parser's answers, RDI is the one of code 0x02. -/
theorem decode_of_code_two {f : List Byte} {i : Instr} (hd : decode f = .ok i) (hcode : byteAt f 1 = 0x02) :
    i = .rdi (wordOf (f.getD 2 0) (f.getD 3 0)) (wordOf (f.getD 4 0) (f.getD 5 0)) := by
  obtain ⟨hill, -⟩ | ⟨c, hc, -, hfields⟩ := decode_ok_cases hd
  · rw [hcode] at hill
    cases hill
  · have hbyte : c.byte.toNat = 0x02 := by rw [← hcode, byteAt, hc]
    cases c with
    | rdi => cases hfields; rfl
    | _ => cases hbyte

/-- The frame's oversize read is the instruction's. -/
theorem oversizeGapRead_iff {s : State} {f : List Byte} {i : Instr} (rest : List HostEvent)
    (hvalid : validate s.slaveAddr f = none) (hd : decode f = .ok i) :
    s.OversizeGapRead f ↔ OversizeRead (s.atHandler f rest) i := by
  have hq : (wordOf (f.getD 4 0) (f.getD 5 0)).toNat = qOf f := wordOf_toNat _ _
  constructor
  · rintro ⟨-, hcode, hcheck, hbig⟩
    exact ⟨_, _, decode_of_code_two hd hcode, hcheck, by rw [hq]; exact hbig⟩
  · rintro ⟨off, n, rfl, hcheck, hbig⟩
    have hcode : byteAt f 1 = 0x02 := congrArg BitVec.toNat (fc_of_decode hd).symm
    cases decode_of_code_two hd hcode
    rw [hq] at hbig
    have hnormal : s.expectedOutcome f = .normal := by
      rw [expectedOutcome_of_decode_eq_ok hvalid hd, show s.cfg.fn02RangeCheck = false from hcheck]
      rfl
    exact ⟨hnormal, hcode, hcheck, hbig⟩

/-- The oversize read is refused, and nothing else. -/
theorem oversizeRead_iff_exec_refused {i : Instr} {s : State} :
    OversizeRead s i ↔ exec i s = .refused .oversizeDiscreteRead := by
  constructor
  · rintro ⟨off, n, rfl, hcheck, hbig⟩
    exact exec_rdi_gap_oversize off n s hcheck hbig
  · intro hexec
    have hend := handlerEnd_exec i s
    rw [hexec] at hend
    cases hend with
    | oversize hbig => exact hbig

/-! ### The step of a request -/

/-- A request that has a next state has the outcome that the order of R204 gives it. -/
theorem outcome_of_request {s t : State} {f : List Byte} (hoff : s.Offered f) (hstep : step s = .next t) :
    t.outcome = some (s.expectedOutcome f) := by
  obtain ⟨rest, -, ⟨r, hv, hdrop⟩ | ⟨hv, e, hd, hdrop⟩ | ⟨hv, i, hd, hrun⟩⟩ := step_offered_cases hoff
  · cases hstep.symm.trans hdrop
    rw [expectedOutcome_of_validate_eq_some hv]
    rfl
  · cases hstep.symm.trans hdrop
    rw [expectedOutcome_of_decode_eq_error hv hd]
    rfl
  · obtain ⟨u, hexec⟩ | ⟨-, hexec⟩ := exec_next_or_refused i (s.atHandler f rest)
    · rw [hexec] at hrun
      cases hstep.symm.trans hrun
      rw [State.finish_outcome, outcome_of_exec hexec, State.atHandler_cfg, expectedOutcome_of_decode_eq_ok hv hd]
    · rw [hexec] at hrun
      cases hstep.symm.trans hrun

/-- The oversize read of function 02 is the one request without a next state (R143). -/
theorem step_of_request_next_or_oversize {s : State} {f : List Byte} (hoff : s.Offered f) :
    (¬ s.OversizeGapRead f ∧ ∃ t, step s = .next t) ∨ (s.OversizeGapRead f ∧ step s = .refused .oversizeDiscreteRead) := by
  obtain ⟨rest, -, ⟨r, hv, hdrop⟩ | ⟨hv, e, hd, hdrop⟩ | ⟨hv, i, hd, hrun⟩⟩ := step_offered_cases hoff
  · refine .inl ⟨fun hbig => ?_, _, hdrop⟩
    exact nomatch (expectedOutcome_of_validate_eq_some hv).symm.trans hbig.1
  · refine .inl ⟨fun hbig => ?_, _, hdrop⟩
    exact nomatch (expectedOutcome_of_decode_eq_error hv hd).symm.trans hbig.1
  · rw [oversizeGapRead_iff rest hv hd, oversizeRead_iff_exec_refused]
    obtain ⟨u, hexec⟩ | ⟨-, hexec⟩ := exec_next_or_refused i (s.atHandler f rest)
    · rw [hexec] at hrun ⊢
      exact .inl ⟨nofun, _, hrun⟩
    · rw [hexec] at hrun ⊢
      exact .inr ⟨rfl, hrun⟩

/-- Settles O36: a request with a next state has the outcome of the order, and the oversize read has none. -/
theorem outcomeFollowsPriority : Obligations.OutcomeFollowsPriority := by
  intro s f hoff
  obtain ⟨hno, t, hstep⟩ | ⟨hbig, hstep⟩ := step_of_request_next_or_oversize hoff
  · have hout := outcome_of_request hoff hstep
    refine ⟨fun hbig => absurd hbig hno, fun _ => ⟨t, hstep, hout, fun r hdrop => ?_⟩⟩
    obtain ⟨-, hsilent, -⟩ := responseLengths s t f hoff hstep
    exact List.length_eq_zero_iff.mp (hsilent r (by rw [hout, hdrop]))
  · exact ⟨fun _ => hstep, fun hno => absurd hbig hno⟩

end Sys2Proof.Machine
end

/-! ## A transaction depends on the request, the configuration and the banks (R34) -/

section

namespace Sys2Proof.Machine

/-! ### Data is determined by what it serves -/

/-- Packed data is its bits. -/
theorem eq_of_packedBit {d1 d2 : List Byte} (hlen : d1.length = d2.length)
    (hbits : ∀ j, j < 8 * d1.length → packedBit d1 j = packedBit d2 j) : d1 = d2 := by
  refine List.ext_getElem hlen fun k h1 h2 => BitVec.eq_of_getLsbD_eq fun b hb => ?_
  have hbit := hbits (8 * k + (7 - b)) (by omega)
  have hdiv : (8 * k + (7 - b)) / 8 = k := by omega
  have hmod : 7 - (8 * k + (7 - b)) % 8 = b := by omega
  rw [packedBit, packedBit, hdiv, hmod] at hbit
  simpa [h1, h2] using hbit

theorem packsBank_unique {c : Nat} {bank : Vector Bool c} {off n : Nat} {d1 d2 : List Byte} (h1 : PacksBank bank off n d1)
    (h2 : PacksBank bank off n d2) : d1 = d2 := by
  obtain ⟨hlen1, hbits1⟩ := h1
  obtain ⟨hlen2, hbits2⟩ := h2
  have hlen : d1.length = d2.length := hlen1.trans hlen2.symm
  exact eq_of_packedBit hlen fun j hj => (hbits1 j hj).trans (hbits2 j (hlen ▸ hj)).symm

theorem servesBank_unique {c : Nat} {bank : Vector Word c} {off n : Nat} {d1 d2 : List Byte} (h1 : ServesBank bank off n d1)
    (h2 : ServesBank bank off n d2) : d1 = d2 := by
  obtain ⟨hlen1, hwords1⟩ := h1
  obtain ⟨hlen2, hwords2⟩ := h2
  refine eq_of_getElem?_pairs hlen1 hlen2 fun k hk => ?_
  obtain ⟨hhi1, hlo1⟩ := hwords1 k hk
  obtain ⟨hhi2, hlo2⟩ := hwords2 k hk
  exact ⟨hhi1.trans hhi2.symm, hlo1.trans hlo2.symm⟩

theorem wroteBank_unique {α : Type} {c : Nat} {bank b1 b2 : Vector α c} {off n : Nat} {g : Nat → Option α}
    (h1 : WroteBank bank b1 off n g) (h2 : WroteBank bank b2 off n g) : b1 = b2 :=
  bank_ext fun k _ _ => (h1 k).trans (h2 k).symm

/-- A read within the bank draws no bit for its response; one beyond it depends on the count of draws (R143). -/
theorem packsGap_unique {s1 s2 : State} {off n : Nat} {d1 d2 : List Byte} (hDI : s1.DI = s2.DI)
    (hdraws : off + n ≤ capDI ∨ s1.draws = s2.draws) (h1 : PacksGap s1 off n d1) (h2 : PacksGap s2 off n d2) : d1 = d2 := by
  have hgap (j : Nat) (hj : j < n) : gapBit s1 off j = gapBit s2 off j := by
    obtain hin | hdraws := hdraws
    · obtain ⟨b, hb⟩ := bankGet_eq_some_of_mem s2.DI (k := off + 1 + j) (by omega) (by omega)
      simp [gapBit, hDI, hb]
    · rw [gapBit, gapBit, hDI, hdraws]
  obtain ⟨hlen1, hbits1⟩ := h1
  obtain ⟨hlen2, hbits2⟩ := h2
  have hlen : d1.length = d2.length := hlen1.trans hlen2.symm
  refine eq_of_packedBit hlen fun j hj => ?_
  rw [hbits1 j hj, hbits2 j (hlen ▸ hj)]
  split
  next hn => rw [hgap j hn]
  next => rfl

/-! ### Two slaves with the same banks -/

/-- The two slaves have the same configuration and the same four banks. -/
structure SameBlock (s1 s2 : State) : Prop where
  DO_eq : s1.DO = s2.DO
  DI_eq : s1.DI = s2.DI
  HR_eq : s1.HR = s2.HR
  IR_eq : s1.IR = s2.IR
  addr_eq : s1.slaveAddr = s2.slaveAddr
  cfg_eq : s1.cfg = s2.cfg

theorem SameBlock.atHandler {s1 s2 : State} (h : SameBlock s1 s2) (f : List Byte) (rest1 rest2 : List HostEvent) :
    SameBlock (s1.atHandler f rest1) (s2.atHandler f rest2) :=
  ⟨h.DO_eq, h.DI_eq, h.HR_eq, h.IR_eq, h.addr_eq, h.cfg_eq⟩

theorem SameBlock.readBody_eq {s1 s2 : State} (h : SameBlock s1 s2) (fc : Byte) (data : List Byte) :
    readBody s1 fc data = readBody s2 fc data := by
  rw [readBody, readBody, h.addr_eq]

theorem SameBlock.echoBody_eq {s1 s2 : State} (h : SameBlock s1 s2) (fc : Byte) (off q : Word) :
    echoBody s1 fc off q = echoBody s2 fc off q := by
  rw [echoBody, echoBody, h.addr_eq]

/-- Two transactions that are about to be sealed have the same outputs and will have the same response. -/
structure SameAnswer (u1 u2 : State) : Prop where
  DO_eq : u1.DO = u2.DO
  HR_eq : u1.HR = u2.HR
  rsp_eq : u1.sealed.rsp = u2.sealed.rsp

theorem NormalEnd.sameAnswer {s1 s2 u1 u2 : State} {i : Instr} (hsame : SameBlock s1 s2)
    (hdraws : ∀ off n : Word, i = .rdi off n → s1.cfg.fn02RangeCheck = false →
      off.toNat + n.toNat ≤ capDI ∨ s1.draws = s2.draws)
    (h1 : NormalEnd s1 i u1) (h2 : NormalEnd s2 i u2) : SameAnswer u1 u2 := by
  obtain ⟨hDO, hDI, hHR, hIR, -, hcfg⟩ := id hsame
  cases h1 with
  | rdo _ hdata1 =>
    cases h2 with
    | rdo _ hdata2 =>
      cases packsBank_unique hdata1 (hDO ▸ hdata2)
      exact ⟨hDO, hHR, by simp [hsame.readBody_eq]⟩
  | rdi _ hdata1 hcheck1 =>
    cases h2 with
    | rdi _ hdata2 =>
      cases packsBank_unique hdata1 (hDI ▸ hdata2)
      exact ⟨hDO, hHR, by simp [hsame.readBody_eq]⟩
    | rdiGap _ _ hcheck2 => simp [hcfg, hcheck2] at hcheck1
  | rdiGap _ hdata1 hcheck1 =>
    cases h2 with
    | rdi _ _ hcheck2 => simp [hcfg, hcheck2] at hcheck1
    | rdiGap _ hdata2 =>
      cases packsGap_unique hDI (hdraws _ _ rfl hcheck1) hdata1 hdata2
      exact ⟨hDO, hHR, by simp [hsame.readBody_eq]⟩
  | rhr _ hdata1 =>
    cases h2 with
    | rhr _ hdata2 =>
      cases servesBank_unique hdata1 (hHR ▸ hdata2)
      exact ⟨hDO, hHR, by simp [hsame.readBody_eq]⟩
  | rir _ hdata1 =>
    cases h2 with
    | rir _ hdata2 =>
      cases servesBank_unique hdata1 (hIR ▸ hdata2)
      exact ⟨hDO, hHR, by simp [hsame.readBody_eq]⟩
  | wdo _ hbank1 =>
    cases h2 with
    | wdo _ hbank2 => exact ⟨wroteBank_unique hbank1 (hDO ▸ hbank2), hHR, by simp [hsame.echoBody_eq]⟩
  | whr _ hbank1 =>
    cases h2 with
    | whr _ hbank2 => exact ⟨hDO, wroteBank_unique hbank1 (hHR ▸ hbank2), by simp [hsame.echoBody_eq]⟩
  | wdon _ hbank1 =>
    cases h2 with
    | wdon _ hbank2 => exact ⟨wroteBank_unique hbank1 (hDO ▸ hbank2), hHR, by simp [hsame.echoBody_eq]⟩
  | whrn _ _ hbank1 =>
    cases h2 with
    | whrn _ _ hbank2 => exact ⟨hDO, wroteBank_unique hbank1 (hHR ▸ hbank2), by simp [hsame.echoBody_eq]⟩

/-! ### Two transactions of one request -/

/-- What COUNT leaves in the input registers is a function of the request's length and the response's (R210). -/
theorem inputs_of_request {s t : State} {f : List Byte} (hoff : s.Offered f) (hstep : step s = .next t) :
    t.DI = s.DI ∧
    t.IR = bankAdd (bankAdd (bankAdd s.IR s.cfg.idxReqCount 1) s.cfg.idxRxBytes f.length) s.cfg.idxTxBytes t.rsp.length := by
  obtain ⟨u, ⟨⟨hDI, hIR⟩, ⟨-, hcfg⟩, hreq, -⟩, rfl⟩ := step_request_finish hoff hstep
  exact ⟨hDI, by simp [hIR, hcfg, hreq]⟩

/-- Short of a normal end, the outcome determines the response. -/
theorem RespondsTo.eq_of_ne_normal {s : State} {fc : Byte} {o : TxOutcome} {r1 r2 : List Byte} (hne : o ≠ .normal)
    (h1 : RespondsTo s fc o r1) (h2 : RespondsTo s fc o r2) : r1 = r2 := by
  cases o with
  | normal => exact absurd rfl hne
  | exception e => rw [h1.eq_of_exception, h2.eq_of_exception]
  | drop r => rw [List.length_eq_zero_iff.mp h1.length_of_drop, List.length_eq_zero_iff.mp h2.length_of_drop]

/-- Two transactions that end normally ran the same instruction on the same banks. -/
theorem sameAnswer_of_normal {s1 s2 t1 t2 : State} {f : List Byte} (hoff1 : s1.Offered f) (hoff2 : s2.Offered f)
    (hsame : SameBlock s1 s2)
    (hdraws : s1.cfg.fn02RangeCheck = true ∨ byteAt f 1 ≠ 0x02 ∨ offOf f + qOf f ≤ 20 ∨ s1.draws = s2.draws)
    (hstep1 : step s1 = .next t1) (hstep2 : step s2 = .next t2) (hnormal1 : t1.outcome = some .normal)
    (hnormal2 : t2.outcome = some .normal) : t1.DO = t2.DO ∧ t1.HR = t2.HR ∧ t1.rsp = t2.rsp := by
  obtain ⟨rest1, i, u1, hd, hend1, rfl⟩ := step_normalEnd hoff1 hstep1 hnormal1
  obtain ⟨rest2, i2, u2, hd2, hend2, rfl⟩ := step_normalEnd hoff2 hstep2 hnormal2
  cases hd.symm.trans hd2
  have hdraws' (off n : Word) (hi : i = .rdi off n) (hcheck : s1.cfg.fn02RangeCheck = false) :
      off.toNat + n.toNat ≤ capDI ∨ s1.draws = s2.draws := by
    subst hi
    obtain ⟨-, rfl, rfl⟩ := header_of_decode hd rfl
    have hcode : byteAt f 1 = 0x02 := congrArg BitVec.toNat (fc_of_decode hd).symm
    rw [wordOf_toNat, wordOf_toNat]
    obtain htrue | hother | hrest := hdraws
    · exact absurd (htrue.symm.trans hcheck) (by decide)
    · exact absurd hcode hother
    · exact hrest
  obtain ⟨hDO, hHR, hrsp⟩ := hend1.sameAnswer (hsame.atHandler f rest1 rest2) hdraws' hend2
  exact ⟨hDO, hHR, hrsp⟩

/-- Settles O48: the order of R204 gives both the same outcome; where it is normal, they ran the same handler, and elsewhere it
determines the response and keeps the outputs. -/
theorem transactionDependsOnlyOnBanks : Obligations.TransactionDependsOnlyOnBanks := by
  intro s1 s2 t1 t2 f hoff1 hoff2 hDO hDI hHR hIR haddr hcfg hdraws hstep1 hstep2
  have hexpected : s1.expectedOutcome f = s2.expectedOutcome f := by
    rw [State.expectedOutcome, State.expectedOutcome, haddr, hcfg]
  have hout : t1.outcome = t2.outcome := by
    rw [outcome_of_request hoff1 hstep1, outcome_of_request hoff2 hstep2, hexpected]
  have hanswer : t1.DO = t2.DO ∧ t1.HR = t2.HR ∧ t1.rsp = t2.rsp := by
    by_cases hnormal : t1.outcome = some .normal
    · exact sameAnswer_of_normal hoff1 hoff2 ⟨hDO, hDI, hHR, hIR, haddr, hcfg⟩ hdraws hstep1 hstep2 hnormal
        (hout ▸ hnormal)
    · obtain ⟨o1, ho1, hrsp1⟩ := step_request_respondsTo hoff1 hstep1
      obtain ⟨o2, ho2, hrsp2⟩ := step_request_respondsTo hoff2 hstep2
      cases ho1.symm.trans (hout.trans ho2)
      have hrsp := RespondsTo.eq_of_ne_normal (fun h => hnormal (by rw [ho1, h])) hrsp1
        (hrsp2.of_sameConfig ⟨haddr.symm, hcfg.symm⟩)
      obtain ⟨u1, hend1, rfl⟩ := step_request_finish hoff1 hstep1
      obtain ⟨u2, hend2, rfl⟩ := step_request_finish hoff2 hstep2
      obtain ⟨hDO1, hHR1⟩ := hend1.outputs hnormal
      obtain ⟨hDO2, hHR2⟩ := hend2.outputs (by rwa [← State.finish_outcome, ← hout])
      exact ⟨hDO1.trans (hDO.trans hDO2.symm), hHR1.trans (hHR.trans hHR2.symm), hrsp⟩
  obtain ⟨hDO', hHR', hrsp⟩ := hanswer
  obtain ⟨hDI1, hIR1⟩ := inputs_of_request hoff1 hstep1
  obtain ⟨hDI2, hIR2⟩ := inputs_of_request hoff2 hstep2
  exact ⟨hrsp, hout, hDO', by rw [hDI1, hDI2, hDI], hHR', by rw [hIR1, hIR2, hIR, hcfg, hrsp]⟩

end Sys2Proof.Machine
end
